-- ==== Sys2Proof/Word.lean ====
section
/-! DEFINITION. The word types of the TS-UNB CORE (00_scope.md R9, R10; widths from 10_state.md). -/

namespace Sys2Proof

/-- A byte, `u8` (R9). -/
abbrev Byte := BitVec 8

/-- A 32-bit word: a command word, a word register, a RESULT (R24, R76). -/
abbrev Word := BitVec 32

/-- A 16-byte block as a 128-bit value, byte 0 most significant (R106, R113). -/
abbrev Block := BitVec 128

/-- The 40-bit stream of one burst: stream bit 0 is the most significant bit (R11, R56). -/
abbrev BurstBits := BitVec 40

/-- A host address: the host space is byte-addressed with 16-bit addresses (R59). -/
abbrev HostAddr := BitVec 16

end Sys2Proof
end

