-- ==== Sys2Proof/Syntax.lean ====
section
/-! DEFINITION. The command set (30_encoding.md): formats, mnemonics, instructions, assembler commands. -/

namespace Sys2Proof

/-- The 15 operand formats of a command word (R78 to R92). -/
inductive Format where
  | fN | fR | fRB | fRIB | fSL | fS | fL | fA | fBR | fMAC | fPHY | fT | fP | fC | fSEND
deriving DecidableEq, Repr

/-- The 27 rows of the opcode map (R93), in its order. -/
inductive Mnemonic where
  | nop | epcLoad | epcCommit
  | aesBlock | cmacSubkeys | cmac
  | burstClear | writeSubPacketBit | writeBitIdx | addMidamble | diffMsk | puncture
  | ctrCrypt | macEncode
  | numBursts | phyAssemble | crc8 | whiten | convInterleave
  | tsmaAssign | lfsrStep | calcF0 | crc2 | syncEncode | tsmaPattern
  | phyEncode | send
deriving DecidableEq, Repr

/-- An instruction: one command of R93 with its operand fields, each an unsigned number of its field's width (R77).
A field cannot hold a value its encoding cannot, so every term of this type is well formed; values outside a command's
legal range are terms of it and fail when they run (R77, R98). -/
inductive Instr where
  /-- NOP, format N (R100). -/
  | nop
  /-- EPC_LOAD, format N (R101). -/
  | epcLoad
  /-- EPC_COMMIT, format N (R104). -/
  | epcCommit
  /-- AES_BLOCK, format N (R112). -/
  | aesBlock
  /-- CMAC_SUBKEYS, format N (R117). -/
  | cmacSubkeys
  /-- CMAC START, LEN, IVP, format SL (R82, R118). -/
  | cmac (start : BitVec 8) (len : BitVec 9) (ivp : BitVec 1)
  /-- BURST_CLEAR N, format L (R120). -/
  | burstClear (n : BitVec 9)
  /-- WRITE_SUB_PACKET_BIT R, BIT, format RB (R121). -/
  | writeSubPacketBit (r : BitVec 9) (bit : BitVec 1)
  /-- WRITE_BIT_IDX R, IDX, BIT, format RIB (R122). -/
  | writeBitIdx (r : BitVec 9) (idx : BitVec 6) (bit : BitVec 1)
  /-- ADD_MIDAMBLE R, format R (R123). -/
  | addMidamble (r : BitVec 9)
  /-- DIFF_MSK R, format R (R124). -/
  | diffMsk (r : BitVec 9)
  /-- PUNCTURE R, format R (R126). -/
  | puncture (r : BitVec 9)
  /-- CTR_CRYPT START, LEN, format S (R133). -/
  | ctrCrypt (start : BitVec 8) (len : BitVec 9)
  /-- MAC_ENCODE LEN, MPF, MPFV, format MAC (R134). -/
  | macEncode (len : BitVec 9) (mpf : BitVec 1) (mpfv : BitVec 8)
  /-- NUM_BURSTS N, format L (R137). -/
  | numBursts (n : BitVec 9)
  /-- PHY_ASSEMBLE MLEN, MMODE, format A (R140). -/
  | phyAssemble (mlen : BitVec 9) (mmode : BitVec 2)
  /-- CRC8 BSTART, BLEN, format BR (R139). -/
  | crc8 (bstart blen : BitVec 12)
  /-- WHITEN N, format L (R141). -/
  | whiten (n : BitVec 9)
  /-- CONV_INTERLEAVE N, format L (R144). -/
  | convInterleave (n : BitVec 9)
  /-- TSMA_ASSIGN NB, PAT, format T (R150). -/
  | tsmaAssign (nb : BitVec 9) (pat : BitVec 3)
  /-- LFSR_STEP, format N (R149). -/
  | lfsrStep
  /-- CALC_F0, format N (R153). -/
  | calcF0
  /-- CRC2 BSTART, BLEN, format BR (R155). -/
  | crc2 (bstart blen : BitVec 12)
  /-- SYNC_ENCODE PAT, format P (R157). -/
  | syncEncode (pat : BitVec 3)
  /-- TSMA_PATTERN COUNTER, format C (R159). -/
  | tsmaPattern (counter : BitVec 24)
  /-- PHY_ENCODE MLEN, PAT, MMODE, format PHY (R160). -/
  | phyEncode (mlen : BitVec 9) (pat : BitVec 3) (mmode : BitVec 2)
  /-- SEND LEN, PRIO, MPFV, format SEND (R162). -/
  | send (len : BitVec 9) (prio : BitVec 1) (mpfv : BitVec 8)
deriving DecidableEq, Repr

/-- A command as an assembler reads it (R98): a mnemonic and its operands in order, numbers not yet checked. -/
structure AsmCommand where
  mnemonic : Mnemonic
  operands : List Nat
deriving DecidableEq, Repr

end Sys2Proof
end

