-- ==== Sys2Proof/WellFormed.lean ====
section
/-! DEFINITION. What the assembler checks (30_encoding.md R98). An `Instr` needs no check: its fields carry the
widths of R78 to R92. An `AsmCommand` is well formed if it has every operand its format requires, each fitting
its field. -/

namespace Sys2Proof

/-- The operand widths of a format, in the assembler's operand order (R79 to R92, R98). -/
def Format.operandWidths : Format → List Nat
  | .fN    => []
  | .fR    => [9]
  | .fRB   => [9, 1]
  | .fRIB  => [9, 6, 1]
  | .fSL   => [8, 9, 1]
  | .fS    => [8, 9]
  | .fL    => [9]
  | .fA    => [9, 2]
  | .fBR   => [12, 12]
  | .fMAC  => [9, 1, 8]
  | .fPHY  => [9, 3, 2]
  | .fT    => [9, 3]
  | .fP    => [3]
  | .fC    => [24]
  | .fSEND => [9, 1, 8]

/-- The format of each command (R93). -/
def Mnemonic.format : Mnemonic → Format
  | .nop => .fN | .epcLoad => .fN | .epcCommit => .fN
  | .aesBlock => .fN | .cmacSubkeys => .fN | .cmac => .fSL
  | .burstClear => .fL | .writeSubPacketBit => .fRB | .writeBitIdx => .fRIB
  | .addMidamble => .fR | .diffMsk => .fR | .puncture => .fR
  | .ctrCrypt => .fS | .macEncode => .fMAC
  | .numBursts => .fL | .phyAssemble => .fA | .crc8 => .fBR | .whiten => .fL | .convInterleave => .fL
  | .tsmaAssign => .fT | .lfsrStep => .fN | .calcF0 => .fN | .crc2 => .fBR | .syncEncode => .fP
  | .tsmaPattern => .fC
  | .phyEncode => .fPHY | .send => .fSEND

/-- `v` is encodable in a field of `width` bits (R98: "refuses an operand that does not fit its field"). -/
def fitsField (width v : Nat) : Bool := decide (v < 2 ^ width)

/-- R98: every operand is required, and each fits its field. -/
def AsmCommand.wellFormed (c : AsmCommand) : Bool :=
  let ws := c.mnemonic.format.operandWidths
  decide (c.operands.length = ws.length) && (ws.zip c.operands).all (fun p => fitsField p.1 p.2)

end Sys2Proof
end

