-- ==== Sys2Proof/Decode.lean ====
section
/-! DEFINITION. The decoder, total on every 32-bit word (30_encoding.md R76 to R94), then the encoder and the
assembler (R98). -/

namespace Sys2Proof

/-- Why a command word is illegal: the two cases of R94. -/
inductive DecodeError where
  /-- Bits 31:24 are not an OPCODE of R93. -/
  | undefinedOpcode
  /-- A reserved bit of the selected format is 1. -/
  | reservedBit
deriving DecidableEq, Repr

/-- The OPCODE of each command (R93). -/
def Mnemonic.opcode : Mnemonic → Byte
  | .nop => 0x00#8
  | .epcLoad => 0x01#8
  | .epcCommit => 0x02#8
  | .aesBlock => 0x10#8
  | .cmacSubkeys => 0x11#8
  | .cmac => 0x12#8
  | .burstClear => 0x20#8
  | .writeSubPacketBit => 0x21#8
  | .writeBitIdx => 0x22#8
  | .addMidamble => 0x23#8
  | .diffMsk => 0x24#8
  | .puncture => 0x25#8
  | .ctrCrypt => 0x30#8
  | .macEncode => 0x31#8
  | .numBursts => 0x40#8
  | .phyAssemble => 0x41#8
  | .crc8 => 0x42#8
  | .whiten => 0x43#8
  | .convInterleave => 0x44#8
  | .tsmaAssign => 0x50#8
  | .lfsrStep => 0x51#8
  | .calcF0 => 0x52#8
  | .crc2 => 0x53#8
  | .syncEncode => 0x54#8
  | .tsmaPattern => 0x55#8
  | .phyEncode => 0x60#8
  | .send => 0x61#8

/-- The rows of the opcode map, in its order (R93). -/
def Mnemonic.all : List Mnemonic :=
  [.nop, .epcLoad, .epcCommit, .aesBlock, .cmacSubkeys, .cmac, .burstClear, .writeSubPacketBit, .writeBitIdx,
   .addMidamble, .diffMsk, .puncture, .ctrCrypt, .macEncode, .numBursts, .phyAssemble, .crc8, .whiten,
   .convInterleave, .tsmaAssign, .lfsrStep, .calcF0, .crc2, .syncEncode, .tsmaPattern, .phyEncode, .send]

/-- The row an OPCODE selects, if any (R93). -/
def Mnemonic.ofOpcode (op : Byte) : Option Mnemonic := Mnemonic.all.find? (fun m => m.opcode == op)

/-- The OPCODE field of a command word (R76). -/
def opcodeField (w : Word) : Byte := w.extractLsb' 24 8

/-- The reserved bits of a format, as a mask on the word: a 1 for each bit of 23:0 that R78 to R92 call reserved. -/
def Format.reservedMask : Format → Word
  | .fN    => 0x00FFFFFF#32
  | .fR    => 0x00FFFE00#32
  | .fRB   => 0x00FFFC00#32
  | .fRIB  => 0x00FF0000#32
  | .fSL   => 0x00FC0000#32
  | .fS    => 0x00FE0000#32
  | .fL    => 0x00FFFE00#32
  | .fA    => 0x00FFCE00#32
  | .fBR   => 0x00000000#32
  | .fMAC  => 0x00FC0000#32
  | .fPHY  => 0x00FFC000#32
  | .fT    => 0x00FFF000#32
  | .fP    => 0x00FFFFF8#32
  | .fC    => 0x00000000#32
  | .fSEND => 0x00FC0000#32

/-- The instruction of a mnemonic with its fields taken from the word (R78 to R92). -/
def Mnemonic.fields (w : Word) : Mnemonic → Instr
  | .nop => .nop
  | .epcLoad => .epcLoad
  | .epcCommit => .epcCommit
  | .aesBlock => .aesBlock
  | .cmacSubkeys => .cmacSubkeys
  | .cmac => .cmac (w.extractLsb' 0 8) (w.extractLsb' 8 9) (w.extractLsb' 17 1)
  | .burstClear => .burstClear (w.extractLsb' 0 9)
  | .writeSubPacketBit => .writeSubPacketBit (w.extractLsb' 0 9) (w.extractLsb' 9 1)
  | .writeBitIdx => .writeBitIdx (w.extractLsb' 0 9) (w.extractLsb' 9 6) (w.extractLsb' 15 1)
  | .addMidamble => .addMidamble (w.extractLsb' 0 9)
  | .diffMsk => .diffMsk (w.extractLsb' 0 9)
  | .puncture => .puncture (w.extractLsb' 0 9)
  | .ctrCrypt => .ctrCrypt (w.extractLsb' 0 8) (w.extractLsb' 8 9)
  | .macEncode => .macEncode (w.extractLsb' 0 9) (w.extractLsb' 9 1) (w.extractLsb' 10 8)
  | .numBursts => .numBursts (w.extractLsb' 0 9)
  | .phyAssemble => .phyAssemble (w.extractLsb' 0 9) (w.extractLsb' 12 2)
  | .crc8 => .crc8 (w.extractLsb' 0 12) (w.extractLsb' 12 12)
  | .whiten => .whiten (w.extractLsb' 0 9)
  | .convInterleave => .convInterleave (w.extractLsb' 0 9)
  | .tsmaAssign => .tsmaAssign (w.extractLsb' 0 9) (w.extractLsb' 9 3)
  | .lfsrStep => .lfsrStep
  | .calcF0 => .calcF0
  | .crc2 => .crc2 (w.extractLsb' 0 12) (w.extractLsb' 12 12)
  | .syncEncode => .syncEncode (w.extractLsb' 0 3)
  | .tsmaPattern => .tsmaPattern (w.extractLsb' 0 24)
  | .phyEncode => .phyEncode (w.extractLsb' 0 9) (w.extractLsb' 9 3) (w.extractLsb' 12 2)
  | .send => .send (w.extractLsb' 0 9) (w.extractLsb' 9 1) (w.extractLsb' 10 8)

/-- The decoder (R93, R94): the row of the OPCODE, provided every reserved bit of its format is 0. -/
def decode (w : Word) : Except DecodeError Instr :=
  match Mnemonic.ofOpcode (opcodeField w) with
  | none => .error .undefinedOpcode
  | some m => if w &&& m.format.reservedMask = 0#32 then .ok (m.fields w) else .error .reservedBit

/-- The mnemonic of an instruction. -/
def Instr.mnemonic : Instr → Mnemonic
  | .nop => .nop
  | .epcLoad => .epcLoad
  | .epcCommit => .epcCommit
  | .aesBlock => .aesBlock
  | .cmacSubkeys => .cmacSubkeys
  | .cmac _ _ _ => .cmac
  | .burstClear _ => .burstClear
  | .writeSubPacketBit _ _ => .writeSubPacketBit
  | .writeBitIdx _ _ _ => .writeBitIdx
  | .addMidamble _ => .addMidamble
  | .diffMsk _ => .diffMsk
  | .puncture _ => .puncture
  | .ctrCrypt _ _ => .ctrCrypt
  | .macEncode _ _ _ => .macEncode
  | .numBursts _ => .numBursts
  | .phyAssemble _ _ => .phyAssemble
  | .crc8 _ _ => .crc8
  | .whiten _ => .whiten
  | .convInterleave _ => .convInterleave
  | .tsmaAssign _ _ => .tsmaAssign
  | .lfsrStep => .lfsrStep
  | .calcF0 => .calcF0
  | .crc2 _ _ => .crc2
  | .syncEncode _ => .syncEncode
  | .tsmaPattern _ => .tsmaPattern
  | .phyEncode _ _ _ => .phyEncode
  | .send _ _ _ => .send

/-- The bits 23:0 of an instruction's word: each format's table from its highest bit down, reserved bits 0
(R78 to R92). -/
def Instr.operandBits : Instr → BitVec 24
  | .nop => 0#24
  | .epcLoad => 0#24
  | .epcCommit => 0#24
  | .aesBlock => 0#24
  | .cmacSubkeys => 0#24
  | .cmac start len ivp => 0#6 ++ ivp ++ len ++ start
  | .burstClear n => 0#15 ++ n
  | .writeSubPacketBit r bit => 0#14 ++ bit ++ r
  | .writeBitIdx r idx bit => 0#8 ++ bit ++ idx ++ r
  | .addMidamble r => 0#15 ++ r
  | .diffMsk r => 0#15 ++ r
  | .puncture r => 0#15 ++ r
  | .ctrCrypt start len => 0#7 ++ len ++ start
  | .macEncode len mpf mpfv => 0#6 ++ mpfv ++ mpf ++ len
  | .numBursts n => 0#15 ++ n
  | .phyAssemble mlen mmode => 0#10 ++ mmode ++ 0#3 ++ mlen
  | .crc8 bstart blen => blen ++ bstart
  | .whiten n => 0#15 ++ n
  | .convInterleave n => 0#15 ++ n
  | .tsmaAssign nb pat => 0#12 ++ pat ++ nb
  | .lfsrStep => 0#24
  | .calcF0 => 0#24
  | .crc2 bstart blen => blen ++ bstart
  | .syncEncode pat => 0#21 ++ pat
  | .tsmaPattern counter => counter
  | .phyEncode mlen pat mmode => 0#10 ++ mmode ++ pat ++ mlen
  | .send len prio mpfv => 0#6 ++ mpfv ++ prio ++ len

/-- The encoder: OPCODE in bits 31:24, operands below (R76). -/
def encode (i : Instr) : Word := i.mnemonic.opcode ++ i.operandBits

/-- The instruction of an assembler command, operands in the order of R98; none where the assembler refuses it. -/
def AsmCommand.toInstr (c : AsmCommand) : Option Instr :=
  if c.wellFormed then
    match c.mnemonic, c.operands with
    | .nop, [] => some .nop
    | .epcLoad, [] => some .epcLoad
    | .epcCommit, [] => some .epcCommit
    | .aesBlock, [] => some .aesBlock
    | .cmacSubkeys, [] => some .cmacSubkeys
    | .cmac, [start, len, ivp] => some (.cmac (.ofNat 8 start) (.ofNat 9 len) (.ofNat 1 ivp))
    | .burstClear, [n] => some (.burstClear (.ofNat 9 n))
    | .writeSubPacketBit, [r, bit] => some (.writeSubPacketBit (.ofNat 9 r) (.ofNat 1 bit))
    | .writeBitIdx, [r, idx, bit] => some (.writeBitIdx (.ofNat 9 r) (.ofNat 6 idx) (.ofNat 1 bit))
    | .addMidamble, [r] => some (.addMidamble (.ofNat 9 r))
    | .diffMsk, [r] => some (.diffMsk (.ofNat 9 r))
    | .puncture, [r] => some (.puncture (.ofNat 9 r))
    | .ctrCrypt, [start, len] => some (.ctrCrypt (.ofNat 8 start) (.ofNat 9 len))
    | .macEncode, [len, mpf, mpfv] => some (.macEncode (.ofNat 9 len) (.ofNat 1 mpf) (.ofNat 8 mpfv))
    | .numBursts, [n] => some (.numBursts (.ofNat 9 n))
    | .phyAssemble, [mlen, mmode] => some (.phyAssemble (.ofNat 9 mlen) (.ofNat 2 mmode))
    | .crc8, [bstart, blen] => some (.crc8 (.ofNat 12 bstart) (.ofNat 12 blen))
    | .whiten, [n] => some (.whiten (.ofNat 9 n))
    | .convInterleave, [n] => some (.convInterleave (.ofNat 9 n))
    | .tsmaAssign, [nb, pat] => some (.tsmaAssign (.ofNat 9 nb) (.ofNat 3 pat))
    | .lfsrStep, [] => some .lfsrStep
    | .calcF0, [] => some .calcF0
    | .crc2, [bstart, blen] => some (.crc2 (.ofNat 12 bstart) (.ofNat 12 blen))
    | .syncEncode, [pat] => some (.syncEncode (.ofNat 3 pat))
    | .tsmaPattern, [counter] => some (.tsmaPattern (.ofNat 24 counter))
    | .phyEncode, [mlen, pat, mmode] => some (.phyEncode (.ofNat 9 mlen) (.ofNat 3 pat) (.ofNat 2 mmode))
    | .send, [len, prio, mpfv] => some (.send (.ofNat 9 len) (.ofNat 1 prio) (.ofNat 8 mpfv))
    | _, _ => none
  else none

/-- The assembler (R98): the command word, or none where an operand is missing or does not fit its field. -/
def AsmCommand.assemble (c : AsmCommand) : Option Word := c.toInstr.map encode

/-- The host's question: the instruction the decoder reads from a table row's bits `w`, `nbits` of them. A command
word is one 32-bit value (R76), so the bits above `nbits` are 0 and no byte order enters. -/
def decodeTableWord (nbits w : Nat) : Option Instr := (decode (BitVec.ofNat 32 (w % 2 ^ nbits))).toOption

end Sys2Proof
end

