-- ==== Sys2Proof/Machine/State.lean ====
section
/-! DEFINITION. The architectural state of the CORE (10_state.md), the host's accesses as its input, and the state
after reset (70_reset_and_hazards.md R188). Plain data throughout. -/

namespace Sys2Proof.Machine

/-- What stops the machine with a fault: nothing. A command error (60_exceptions.md R165) and a bus error (R177) are
next states; the CORE has no trap (R179). So this type has no constructor. -/
inductive Fault
deriving DecidableEq, Repr

/-- Why the model gives an instruction no meaning. -/
inductive Refusal where
  /-- Raised only by an arm of `exec` whose instruction has no meaning in the model. No arm does so. It is safe: it
  says nothing about the hardware. -/
  | notModelled (mnemonic : String)
deriving DecidableEq, Repr

/-- STATUS (R25), less its reserved bits. -/
structure Status where
  /-- bits 7:0, the error code of the most recent command word -/
  lastErr : Byte
  /-- bits 15:8, the opcode field of the most recent command word -/
  lastOp : Byte
deriving DecidableEq, Repr

/-- EVENTS (R27), less its reserved bits. -/
structure Events where
  /-- bit 0, PERSIST_REQ -/
  persistReq : Bool
  /-- bit 1, OUT_VALID -/
  outValid : Bool
  /-- bit 2, ERR -/
  err : Bool
deriving DecidableEq, Repr

/-- CTRL (R28), less its reserved bits. -/
structure Ctrl where
  /-- bit 0, KEY_LOCK -/
  keyLock : Bool
  /-- bit 1, EUI_LOCK -/
  euiLock : Bool
  /-- bit 2, ADDR_LONG -/
  addrLong : Bool
  /-- bit 3, SYNC_EN -/
  syncEn : Bool
  /-- bit 4, SHORT_OVR_EN -/
  shortOvrEn : Bool
deriving DecidableEq, Repr

/-- OUT_INFO (R47), less its reserved bits. -/
structure OutInfo where
  /-- bits 2:0, PATTERN -/
  pattern : BitVec 3
  /-- bit 3, SYNC -/
  sync : Bool
deriving DecidableEq, Repr

/-- One burst record (R56). BIT_LENGTH is derived from CARRIER and not stored. -/
structure BurstRec where
  bits : BurstBits
  cursor : BitVec 5
  carrier : BitVec 16
  trb : BitVec 16
deriving DecidableEq, Repr

/-- A record with every field 0: what BURST_CLEAR leaves (R120). -/
def BurstRec.cleared : BurstRec := { bits := 0, cursor := 0, carrier := 0, trb := 0 }

/-- The 260 burst records: 0..258 data bursts, 259 the sync burst (R56). -/
abbrev Bursts := Vector BurstRec 260

/-- The byte locations of 10_state.md section 3, as cells keyed by host address (R60). An unlisted address reads
as `Memory.unlisted`. -/
abbrev Memory := List Host.Cell

/-- The width of a host access (R62). 16-bit accesses exist only to be bus errors. -/
inductive AccessSize where
  | byte | half | word
deriving DecidableEq, Repr

/-- One thing the outside world does to the CORE: a host read or write (R63, R64) or the platform's reset (R187). -/
inductive HostEvent where
  | read (a : HostAddr) (n : AccessSize)
  | write (a : HostAddr) (n : AccessSize) (v : Word)
  | reset
deriving DecidableEq, Repr

/-- The bus response to one access: an error flag, and the data a read returns (R65). -/
structure BusResponse where
  error : Bool
  data : Word
deriving DecidableEq, Repr

/-- The byte regions and byte memories (R48 to R55). -/
inductive ByteRegion where
  | key | eui64 | aesIn | aesOut | k1 | k2 | tag | payload | mpdu | phybuf
deriving DecidableEq, Repr

/-- The word registers (R24 to R47), in the order of their offsets. -/
inductive WordReg where
  | cmd | status | result | events | ctrl | shortAddrOvr | chanA | chanB | bC | bC0 | upg | nCo
  | epc | epcLoadval | epcStore | f0 | numBursts | mpduLen | crcHdr | crcPay | tsmaLfsr | whitenLfsr
  | convSr | outInfo
deriving DecidableEq, Repr

/-- A location of the host space (R60). -/
inductive Location where
  | reg (r : WordReg)
  | byte (g : ByteRegion) (i : Nat)
  | burstBits (r k : Nat)
  | burstCarrier (r : Nat)
  | burstTrb (r : Nat)
  | burstCursor (r : Nat)
  | burstBitLength (r : Nat)
deriving DecidableEq, Repr

/-- The architectural state (R21), and two fields of the model's own: the host's accesses still to come (log 1) and
the response to the last one served (log 2). CMD holds no value (R24). -/
structure State where
  status : Status
  result : Word
  events : Events
  ctrl : Ctrl
  shortAddrOvr : BitVec 16
  chanA : BitVec 32
  chanB : BitVec 32
  bC : BitVec 16
  bC0 : BitVec 16
  upg : BitVec 2
  nCo : BitVec 4
  epc : BitVec 32
  epcLoadval : BitVec 24
  epcStore : BitVec 24
  f0 : BitVec 32
  numBursts : BitVec 9
  mpduLen : BitVec 9
  crcHdr : Byte
  crcPay : Byte
  tsmaLfsr : BitVec 16
  whitenLfsr : BitVec 16
  convSr : BitVec 6
  outInfo : OutInfo
  mem : Memory
  bursts : Bursts
  hostQueue : List HostEvent
  busResponse : Option BusResponse
deriving DecidableEq, Repr

/-- The machine right after reset (R188). PAYLOAD, MPDU, PHYBUF and the burst records, which R188 leaves unspecified,
hold 0 (DESIGN CHOICE, unsafe: log 4, log 5). No access is pending and none has been answered (log 1, log 2). -/
def State.reset : State where
  status := { lastErr := 0, lastOp := 0 }
  result := 0
  events := { persistReq := false, outValid := false, err := false }
  ctrl := { keyLock := false, euiLock := false, addrLong := false, syncEn := false, shortOvrEn := false }
  shortAddrOvr := 0
  chanA := 0
  chanB := 0
  bC := 0
  bC0 := 0
  upg := 0
  nCo := 0
  epc := 0
  epcLoadval := 0xFFFFFF
  epcStore := 0
  f0 := 0
  numBursts := 0
  mpduLen := 0
  crcHdr := 0
  crcPay := 0
  tsmaLfsr := 0
  whitenLfsr := 0
  convSr := 0
  outInfo := { pattern := 0, sync := false }
  mem := []
  bursts := Vector.replicate 260 BurstRec.cleared
  hostQueue := []
  busResponse := none

end Sys2Proof.Machine
end

