-- ==== Sys2Proof/Machine/Bits.lean ====
section
/-! DEFINITION. Bit and byte primitives (00_scope.md R9 to R15) and the pseudocode's loop (R13). -/

namespace Sys2Proof.Machine

/-- `for i in a..b-1` (R13): runs the body for i = a, a+1, …, b-1 in order, and not at all when b ≤ a. -/
def forRange {σ : Type} (a b : Nat) (body : Nat → σ → σ) (s : σ) : σ :=
  (List.range' a (b - a)).foldl (fun t i => body i t) s

/-- BitRead of R14: stream bit `i` of a byte memory `buf` is bit `7 - (i & 7)` of byte `buf[i >> 3]`. -/
def bitRead (buf : Nat → Byte) (i : Nat) : Bool := (buf (i / 8)).getLsbD (7 - i % 8)

/-- Stream bit `i` of a burst: bit `7 - (i mod 8)` of BITS[i div 8], so value bit `39 - i` (R11, R56). -/
def burstBit (b : BurstBits) (i : Nat) : Bool := decide (i < 40) && b.getLsbD (39 - i)

/-- BitWrite of R14 on a burst: changes stream bit `i` only. -/
def burstBitWrite (b : BurstBits) (i : Nat) (v : Bool) : BurstBits :=
  (b &&& ~~~(1#40 <<< (39 - i))) ||| ((BitVec.ofBool v).setWidth 40 <<< (39 - i))

/-- BITS[k], k in 0..4, byte 0 first in the stream (R56). -/
def burstByte (b : BurstBits) (k : Nat) : Byte := b.extractLsb' (32 - 8 * k) 8

/-- BITS with byte k replaced. -/
def setBurstByte (b : BurstBits) (k : Nat) (v : Byte) : BurstBits :=
  (b &&& ~~~(0xFF#40 <<< (32 - 8 * k))) ||| (v.setWidth 40 <<< (32 - 8 * k))

/-- `parity(x)`, the XOR of all bits of x (R9). -/
def parity {n : Nat} (x : BitVec n) : Bool := (List.range n).foldl (fun p i => p ^^ x.getLsbD i) false

/-- `BE32(b0,b1,b2,b3)` (R15). -/
def be32 (b0 b1 b2 b3 : Byte) : Word := b0 ++ b1 ++ b2 ++ b3

/-- Byte `i` of a block, byte 0 most significant (R106, R113). -/
def blockByte (x : Block) (i : Nat) : Byte := x.extractLsb' (120 - 8 * i) 8

/-- The block whose bytes are the list's, first byte most significant. -/
def blockOfBytes (bs : List Byte) : Block := bs.foldl (fun acc b => (acc <<< 8) ||| b.setWidth 128) 0#128

/-- The 16 bytes of a block, byte 0 first. -/
def blockBytes (x : Block) : List Byte := (List.range 16).map (blockByte x)

/-- The n bytes of a value, most significant first (the byte order of R67). -/
def bytesBE {w : Nat} (n : Nat) (x : BitVec w) : List Byte :=
  (List.range n).map (fun i => x.extractLsb' (8 * (n - 1 - i)) 8)

/-- `ceil(a / b)` for b > 0. -/
def ceilDiv (a b : Nat) : Nat := (a + (b - 1)) / b

end Sys2Proof.Machine
end

