-- ==== Sys2Proof/Machine/Flags.lean ====
section
/-! DEFINITION. STATUS, EVENTS, CTRL and OUT_INFO as words, their write rules, and the event bits the commands set
(10_state.md R25 to R28, R47, R57). -/

namespace Sys2Proof.Machine

/-- The error codes of STATUS.LAST_ERR (60_exceptions.md R166). The two sink errors are reserved and never
raised (R167). -/
inductive ErrorCode where
  | ok | configError | payloadTooLong | transceiverNotFound | transceiverIo | illegalCommand | operandRange
deriving DecidableEq, Repr

/-- The numbers of the error codes (R166). -/
def ErrorCode.code : ErrorCode → Byte
  | .ok => 0#8
  | .configError => 1#8
  | .payloadTooLong => 2#8
  | .transceiverNotFound => 3#8
  | .transceiverIo => 4#8
  | .illegalCommand => 5#8
  | .operandRange => 6#8

/-- STATUS as read (R25): LAST_OP in bits 15:8, LAST_ERR in bits 7:0, the rest 0. -/
def Status.toWord (x : Status) : Word := 0#16 ++ x.lastOp ++ x.lastErr

/-- EVENTS as read (R27): ERR, OUT_VALID, PERSIST_REQ in bits 2, 1, 0. -/
def Events.toWord (e : Events) : Word :=
  0#29 ++ BitVec.ofBool e.err ++ BitVec.ofBool e.outValid ++ BitVec.ofBool e.persistReq

/-- A host write to EVENTS (RW1C, R27): a 1 clears its bit, a 0 leaves it. -/
def Events.clear (e : Events) (v : Word) : Events where
  persistReq := e.persistReq && !v.getLsbD 0
  outValid := e.outValid && !v.getLsbD 1
  err := e.err && !v.getLsbD 2

/-- CTRL as read (R28). -/
def Ctrl.toWord (c : Ctrl) : Word :=
  0#27 ++ BitVec.ofBool c.shortOvrEn ++ BitVec.ofBool c.syncEn ++ BitVec.ofBool c.addrLong
    ++ BitVec.ofBool c.euiLock ++ BitVec.ofBool c.keyLock

/-- A host write to CTRL (R28): the locks are set-only, the other three bits take the value written. -/
def Ctrl.write (c : Ctrl) (v : Word) : Ctrl where
  keyLock := c.keyLock || v.getLsbD 0
  euiLock := c.euiLock || v.getLsbD 1
  addrLong := v.getLsbD 2
  syncEn := v.getLsbD 3
  shortOvrEn := v.getLsbD 4

/-- OUT_INFO as read (R47). -/
def OutInfo.toWord (o : OutInfo) : Word := 0#28 ++ BitVec.ofBool o.sync ++ o.pattern

/-- EVENTS.PERSIST_REQ <- 1 (R102, R104). -/
def Events.setPersistReq (e : Events) : Events := { e with persistReq := true }

/-- EVENTS.OUT_VALID <- 1 (R160, R162). -/
def Events.setOutValid (e : Events) : Events := { e with outValid := true }

/-- EVENTS.ERR <- 1 (R175). -/
def Events.setErr (e : Events) : Events := { e with err := true }

end Sys2Proof.Machine
end

