-- ==== Sys2Proof/Machine/Ops.lean ====
section
/-! DEFINITION. The named operations over memory, burst records and registers; how a command step begins, completes
and ends in an error (30_encoding.md R96, R97; 60_exceptions.md R174, R175). -/

namespace Sys2Proof.Machine

/-! ## Byte memory -/

/-- What an unlisted address reads as: 0. R188 states it for KEY, EUI64, AES_IN, AES_OUT, K1, K2 and TAG; for PAYLOAD,
MPDU and PHYBUF it is a DESIGN CHOICE, unsafe (log 4). -/
def Memory.unlisted : Byte := 0#8

/-- The byte at an address. -/
def Memory.read : Memory → Nat → Byte
  | [], _ => Memory.unlisted
  | c :: m, a => if c.1 = a then c.2 else Memory.read m a

/-- A cell put before the first cell of a higher address. -/
def Memory.insert (a : Nat) (v : Byte) : Memory → Memory
  | [] => [(a, v)]
  | c :: m => if a < c.1 then (a, v) :: c :: m else c :: Memory.insert a v m

/-- Store one byte, keeping the canonical form: storing what an unlisted address reads as removes the entry. -/
def Memory.write (m : Memory) (a : Nat) (v : Byte) : Memory :=
  let rest := m.filter (fun c => c.1 != a)
  if v = Memory.unlisted then rest else Memory.insert a v rest

/-- Store consecutive bytes from an address up. -/
def Memory.writeList (m : Memory) (a : Nat) : List Byte → Memory
  | [] => m
  | v :: vs => Memory.writeList (m.write a v) (a + 1) vs

/-- The canonical form: addresses strictly rising, no entry equal to what an unlisted address reads as. -/
abbrev Memory.wf (m : Memory) : Prop :=
  m.Pairwise (fun c d => c.1 < d.1) ∧ ∀ c ∈ m, c.2 ≠ Memory.unlisted

/-- The host address of a region's first byte (20_memory.md R60). -/
def ByteRegion.base : ByteRegion → Nat
  | .key => 0x0100
  | .eui64 => 0x0110
  | .aesIn => 0x0120
  | .aesOut => 0x0130
  | .k1 => 0x0140
  | .k2 => 0x0150
  | .tag => 0x0160
  | .payload => 0x0200
  | .mpdu => 0x0300
  | .phybuf => 0x0400

/-- The number of bytes of a region (R48 to R55). -/
def ByteRegion.size : ByteRegion → Nat
  | .key => 16
  | .eui64 => 8
  | .aesIn => 16
  | .aesOut => 16
  | .k1 => 16
  | .k2 => 16
  | .tag => 16
  | .payload => 256
  | .mpdu => 256
  | .phybuf => 259

/-- The regions in address order. -/
def ByteRegion.all : List ByteRegion := [.key, .eui64, .aesIn, .aesOut, .k1, .k2, .tag, .payload, .mpdu, .phybuf]

/-- `MEM[i]` (R12). -/
def State.byte (s : State) (g : ByteRegion) (i : Nat) : Byte := s.mem.read (g.base + i)

/-- `MEM[a .. a+n-1]`. -/
def State.bytes (s : State) (g : ByteRegion) (a n : Nat) : List Byte :=
  (List.range n).map (fun i => s.byte g (a + i))

/-- `MEM[i] <- v` (R12). -/
def State.setByte (s : State) (g : ByteRegion) (i : Nat) (v : Byte) : State :=
  { s with mem := s.mem.write (g.base + i) v }

/-- `MEM[a ..] <- bs`. -/
def State.setBytes (s : State) (g : ByteRegion) (a : Nat) (bs : List Byte) : State :=
  { s with mem := s.mem.writeList (g.base + a) bs }

/-- A 16-byte region as a block. -/
def State.block (s : State) (g : ByteRegion) : Block := blockOfBytes (s.bytes g 0 16)

/-- A 16-byte region written from a block. -/
def State.setBlock (s : State) (g : ByteRegion) (x : Block) : State := s.setBytes g 0 (blockBytes x)

/-! ## Burst records -/

/-- `BURST[r]` of a file of records (R56). No command reads a record past 259 (R169). -/
def Bursts.rec (b : Bursts) (r : Nat) : BurstRec := b.getD r BurstRec.cleared

/-- `BURST[r] <- x`. -/
def Bursts.put (b : Bursts) (r : Nat) (x : BurstRec) : Bursts := b.setIfInBounds r x

/-- `BURST[r]` (R12). -/
def State.burst (s : State) (r : Nat) : BurstRec := s.bursts.rec r

/-- `BURST[r] <- x`. -/
def State.setBurst (s : State) (r : Nat) (x : BurstRec) : State := { s with bursts := s.bursts.put r x }

/-- BIT_LENGTH, derived (R56, R63): 0 when the burst is punctured, else 40. -/
def BurstRec.bitLength (b : BurstRec) : Nat := if b.carrier = 0xFFFF#16 then 0 else 40

/-! ## The command step -/

/-- The step's first statement, `STATUS.LAST_OP <- w[31:24]` (R96). -/
def State.setLastOp (s : State) (op : Byte) : State := { s with status := { s.status with lastOp := op } }

/-- Completion of `return v` (R97). -/
def State.complete (s : State) (v : Word) : State :=
  { s with status := { s.status with lastErr := ErrorCode.ok.code }, result := v }

/-- The effect of `raise Error(c)` (R174, R175), taken in the state before the command's first write: LAST_ERR,
RESULT = 0, EVENTS.ERR = 1, and nothing else. This is the CORE's whole exception entry (R179); there is no
return from it (R180). -/
def State.raiseError (s : State) (c : ErrorCode) : State :=
  { s with status := { s.status with lastErr := c.code }, result := 0, events := s.events.setErr }

/-- The failure value of PHY_ENCODE and SEND, `F0 <- 0` (R161). -/
def State.clearF0 (s : State) : State := { s with f0 := 0 }

/-- What a command's checks find: the first error in order, or none (R173). -/
abbrev CheckResult := Option ErrorCode

/-- The first of a command's checks that fails, in the order of its pseudocode (R173). -/
def firstError : List (Bool × ErrorCode) → CheckResult
  | [] => none
  | (bad, c) :: rest => if bad then some c else firstError rest

/-- One command step after decoding (R96): LAST_OP, the checks, then either the error or the body and completion.
Every check precedes every state write of the body (R96, R174). -/
def runCommand (m : Mnemonic) (check : State → CheckResult) (body : State → Word × State) (s : State) :
    Host.Outcome State Fault Refusal :=
  let s0 := s.setLastOp m.opcode
  match check s0 with
  | some c => .next (s0.raiseError c)
  | none => .next ((body s0).2.complete (body s0).1)

/-- The same for PHY_ENCODE and SEND, whose failure also writes F0 = 0 (R161, R175). -/
def runCommandF0 (m : Mnemonic) (check : State → CheckResult) (body : State → Word × State) (s : State) :
    Host.Outcome State Fault Refusal :=
  let s0 := s.setLastOp m.opcode
  match check s0 with
  | some c => .next ((s0.raiseError c).clearF0)
  | none => .next ((body s0).2.complete (body s0).1)

/-- A command word that is illegal (R94, R168): LAST_OP from its opcode field, then ILLEGAL_COMMAND. -/
def illegalCommand (w : Word) (s : State) : Host.Outcome State Fault Refusal :=
  .next ((s.setLastOp (opcodeField w)).raiseError .illegalCommand)

end Sys2Proof.Machine
end

