-- ==== Sys2Proof/Machine/Operands.lean ====
section
/-! DEFINITION. Sizes (00_scope.md R6) and the checks of operands and configuration: OPERAND_RANGE
(60_exceptions.md R169), CONFIG_ERROR (R170, 45_tsma_sync.md R146) and PAYLOAD_TOO_LONG (R171). Operand fields come
to a meaning as the decoder cut them; a meaning uses their unsigned values (R77). -/

namespace Sys2Proof.Machine

/-- MAX_MPDU_LEN (R6). -/
def maxMpduLen : Nat := 255
/-- MAX_DATA_BURSTS (R6): also the size of PHYBUF, one byte per burst. -/
def maxDataBursts : Nat := 259
/-- BURST_RECORDS (R6). -/
def burstRecords : Nat := 260
/-- The record of the sync burst (R56). -/
def syncRecord : Nat := 259
/-- CORE_BURSTS (R6). -/
def coreBursts : Nat := 24
/-- DATA_BITS_PER_BURST (R6). -/
def dataBitsPerBurst : Nat := 24
/-- HEAD_BITS (R6). -/
def headBits : Nat := 2
/-- MIDAMBLE_BITS (R6). -/
def midambleBits : Nat := 12
/-- Bits of a burst (R6). -/
def burstLength : Nat := 40
/-- Bytes of the MPDU memory (R6). -/
def mpduSize : Nat := 256
/-- Stream bits of PHYBUF, 259 × 8 (R86). -/
def phybufBits : Nat := 2072

/-- R > 259 (R169). -/
def badRecord (r : Nat) : Bool := decide (r > 259)

/-- START + LEN > 256: the slice runs past MPDU (R169). -/
def badMpduSlice (start len : Nat) : Bool := decide (start + len > mpduSize)

/-- BSTART + BLEN > 2072: the bit range runs past PHYBUF (R169). -/
def badPhyBits (bstart blen : Nat) : Bool := decide (bstart + blen > phybufBits)

/-- A burst count outside 24..259 (R144, R150, R169). -/
def badBurstCount (n : Nat) : Bool := decide (n < coreBursts) || decide (n > maxDataBursts)

/-- `mpdu_len > 255` (R171). -/
def tooLong (m : Nat) : Bool := decide (m > maxMpduLen)

/-- "key/EUI not set": KEY_LOCK = 0 or EUI_LOCK = 0 (R170). -/
def locksMissing (s : State) : Bool := !s.ctrl.keyLock || !s.ctrl.euiLock

/-- One channel's f_0 bounds of RegionCheck (R146), in integer arithmetic. -/
def badChannel (s : State) (fc : BitVec 32) : Bool :=
  let h : Int := (s.nCo.toNat / 2 : Nat)
  let low : Int := (fc.toNat : Int) - 12 * (s.bC.toNat : Int) - h * (s.bC0.toNat : Int)
  let high : Int := (fc.toNat : Int) - 12 * (s.bC.toNat : Int) + h * (s.bC0.toNat : Int)
  decide (low < 1) || decide (high > 0xFFFFFFFF)

/-- RegionCheck() fails (R146): UPG, N_CO, the B_C bound, then both channels. -/
def regionBad (s : State) : Bool :=
  (s.upg == 0#2)
    || !(s.nCo == 3#4 || s.nCo == 11#4)
    || decide (24 * s.bC.toNat > 0xFFFE)
    || badChannel s s.chanA
    || badChannel s s.chanB

end Sys2Proof.Machine
end

