-- ==== Sys2Proof/Machine/Bus.lean ====
section
/-! DEFINITION. The host bus: the address map, which accesses are legal, what they read and write
(20_memory.md R59 to R66). -/

namespace Sys2Proof.Machine

/-- The word registers in the order of their offsets 0x000, 0x004, …, 0x05C (R60). -/
def wordRegs : List WordReg :=
  [.cmd, .status, .result, .events, .ctrl, .shortAddrOvr, .chanA, .chanB, .bC, .bC0, .upg, .nCo,
   .epc, .epcLoadval, .epcStore, .f0, .numBursts, .mpduLen, .crcHdr, .crcPay, .tsmaLfsr, .whitenLfsr,
   .convSr, .outInfo]

/-- The host address of CMD (R24). -/
def cmdAddr : HostAddr := 0x000#16

/-- The byte location at an address, if it is of class `byte` (R60). -/
def byteLocation (a : Nat) : Option Location :=
  match ByteRegion.all.find? (fun g => decide (g.base ≤ a) && decide (a < g.base + g.size)) with
  | some g => some (.byte g (a - g.base))
  | none =>
    if 0x1000 ≤ a ∧ a < 0x3080 ∧ (a - 0x1000) % 0x20 ≤ 4 then
      some (.burstBits ((a - 0x1000) / 0x20) ((a - 0x1000) % 0x20))
    else none

/-- The word location at an address, if it is of class `word` and the address a multiple of 4 (R60, R62). -/
def wordLocation (a : Nat) : Option Location :=
  if a < 0x60 then (if a % 4 = 0 then wordRegs[a / 4]?.map .reg else none)
  else if 0x1000 ≤ a ∧ a < 0x3080 then
    let r := (a - 0x1000) / 0x20
    match (a - 0x1000) % 0x20 with
    | 0x08 => some (.burstCarrier r)
    | 0x0C => some (.burstTrb r)
    | 0x10 => some (.burstCursor r)
    | 0x14 => some (.burstBitLength r)
    | _ => none
  else none

/-- The location a legal access reaches; none is a bus error (R62). A 16-bit access is never legal. -/
def locate (a : HostAddr) (n : AccessSize) : Option Location :=
  match n with
  | .byte => byteLocation a.toNat
  | .half => none
  | .word => wordLocation a.toNat

/-- A word register as read, reserved bits 0 and CMD 0 (R24 to R47, R63). -/
def State.readReg (s : State) : WordReg → Word
  | .cmd => 0
  | .status => s.status.toWord
  | .result => s.result
  | .events => s.events.toWord
  | .ctrl => s.ctrl.toWord
  | .shortAddrOvr => s.shortAddrOvr.setWidth 32
  | .chanA => s.chanA
  | .chanB => s.chanB
  | .bC => s.bC.setWidth 32
  | .bC0 => s.bC0.setWidth 32
  | .upg => s.upg.setWidth 32
  | .nCo => s.nCo.setWidth 32
  | .epc => s.epc
  | .epcLoadval => s.epcLoadval.setWidth 32
  | .epcStore => s.epcStore.setWidth 32
  | .f0 => s.f0
  | .numBursts => s.numBursts.setWidth 32
  | .mpduLen => s.mpduLen.setWidth 32
  | .crcHdr => s.crcHdr.setWidth 32
  | .crcPay => s.crcPay.setWidth 32
  | .tsmaLfsr => s.tsmaLfsr.setWidth 32
  | .whitenLfsr => s.whitenLfsr.setWidth 32
  | .convSr => s.convSr.setWidth 32
  | .outInfo => s.outInfo.toWord

/-- A word register after a host write (R64): a RW register takes its implemented bits, a RO one ignores the write,
EVENTS and CTRL follow their own rules. A write to CMD issues a command (R96) and stores nothing here. -/
def State.writeReg (s : State) (v : Word) : WordReg → State
  | .cmd => s
  | .status => s
  | .result => s
  | .events => { s with events := s.events.clear v }
  | .ctrl => { s with ctrl := s.ctrl.write v }
  | .shortAddrOvr => { s with shortAddrOvr := v.setWidth 16 }
  | .chanA => { s with chanA := v }
  | .chanB => { s with chanB := v }
  | .bC => { s with bC := v.setWidth 16 }
  | .bC0 => { s with bC0 := v.setWidth 16 }
  | .upg => { s with upg := v.setWidth 2 }
  | .nCo => { s with nCo := v.setWidth 4 }
  | .epc => s
  | .epcLoadval => { s with epcLoadval := v.setWidth 24 }
  | .epcStore => s
  | .f0 => s
  | .numBursts => s
  | .mpduLen => s
  | .crcHdr => { s with crcHdr := v.setWidth 8 }
  | .crcPay => { s with crcPay := v.setWidth 8 }
  | .tsmaLfsr => { s with tsmaLfsr := v.setWidth 16 }
  | .whitenLfsr => s
  | .convSr => s
  | .outInfo => s

/-- The host may read a region's bytes: all but KEY, which is write-only (R48, R60). -/
def ByteRegion.readable : ByteRegion → Bool
  | .key => false
  | _ => true

/-- The host may write a region's bytes now (R60, R64): not the RO regions, not KEY or EUI64 once locked. -/
def State.writable (s : State) : ByteRegion → Bool
  | .key => !s.ctrl.keyLock
  | .eui64 => !s.ctrl.euiLock
  | .aesIn => true
  | .aesOut => false
  | .k1 => false
  | .k2 => false
  | .tag => false
  | .payload => true
  | .mpdu => true
  | .phybuf => true

/-- `MemRead` of a legal location (R63). -/
def State.readLoc (s : State) : Location → Word
  | .reg r => s.readReg r
  | .byte g i => if g.readable then (s.byte g i).setWidth 32 else 0
  | .burstBits r k => (burstByte (s.burst r).bits k).setWidth 32
  | .burstCarrier r => (s.burst r).carrier.setWidth 32
  | .burstTrb r => (s.burst r).trb.setWidth 32
  | .burstCursor r => (s.burst r).cursor.setWidth 32
  | .burstBitLength r => BitVec.ofNat 32 (s.burst r).bitLength

/-- `MemWrite` of a legal location other than CMD (R64). -/
def State.writeLoc (s : State) (v : Word) : Location → State
  | .reg r => s.writeReg v r
  | .byte g i => if s.writable g then s.setByte g i (v.setWidth 8) else s
  | .burstBits r k => s.setBurst r { s.burst r with bits := setBurstByte (s.burst r).bits k (v.setWidth 8) }
  | .burstCarrier r => s.setBurst r { s.burst r with carrier := v.setWidth 16 }
  | .burstTrb r => s.setBurst r { s.burst r with trb := v.setWidth 16 }
  | .burstCursor _ => s
  | .burstBitLength _ => s

/-- The response to a legal access: the data of a read, 0 for a write (log 2). -/
def State.answer (s : State) (data : Word) : State := { s with busResponse := some { error := false, data := data } }

/-- The response to an illegal access (R65): an error, data 0, no state of the CORE changed (log 3). -/
def State.busError (s : State) : State := { s with busResponse := some { error := true, data := 0 } }

/-- The state that reset leaves, the accesses still to come kept (R187, log 10). -/
def State.platformReset (s : State) : State := { State.reset with hostQueue := s.hostQueue }

/-- `MemRead(a, n)` (R63, R65). -/
def State.serveRead (s : State) (a : HostAddr) (n : AccessSize) : State :=
  match locate a n with
  | some l => s.answer (s.readLoc l)
  | none => s.busError

end Sys2Proof.Machine
end

