-- ==== Sys2Proof/Machine/RadioBurst.lean ====
section
/-! DEFINITION. The radio-burst assembler (42_radioburst.md). -/

namespace Sys2Proof.Machine

/-! ## BURST_CLEAR -/

/-- The body of BURST_CLEAR (R120): records 0..n-1 become all zero. -/
def burstClearBody (n : Nat) (s : State) : Word × State :=
  (0, { s with bursts := forRange 0 n (fun r b => Bursts.put b r BurstRec.cleared) s.bursts })

/-- BURST_CLEAR (R120). -/
def execBurstClear (n : BitVec 9) (s : State) : Host.Outcome State Fault Refusal :=
  runCommand .burstClear (fun _ => firstError [(decide (n.toNat > burstRecords), .operandRange)])
    (burstClearBody n.toNat) s

/-! ## WRITE_SUB_PACKET_BIT -/

/-- The payload position of a burst's data bit number `n` in record `r` (R121): the interleaved mapping. -/
def subPacketPos (r n : Nat) : Nat := if (r ^^^ n) % 2 = 1 then 24 + n / 2 else 11 - n / 2

/-- The record after its next data bit is written (R121): `BitWrite` at the position plus HEAD_BITS, then the cursor. -/
def pushDataBit (r : Nat) (v : Bool) (x : BurstRec) : BurstRec :=
  { x with
    bits := burstBitWrite x.bits (subPacketPos r x.cursor.toNat + headBits) v
    cursor := x.cursor + 1 }

/-- The body of WRITE_SUB_PACKET_BIT (R121); its RESULT is the stream bit written. -/
def writeSubPacketBitBody (r : Nat) (v : Bool) (s : State) : Word × State :=
  (BitVec.ofNat 32 (subPacketPos r (s.burst r).cursor.toNat + headBits), s.setBurst r (pushDataBit r v (s.burst r)))

/-- The checks of WRITE_SUB_PACKET_BIT (R121): the record, then its cursor. -/
def writeSubPacketBitCheck (r : Nat) (s : State) : CheckResult :=
  firstError [(badRecord r, .operandRange), (decide ((s.burst r).cursor.toNat ≥ dataBitsPerBurst), .operandRange)]

/-- WRITE_SUB_PACKET_BIT (R121). -/
def execWriteSubPacketBit (r : BitVec 9) (bit : BitVec 1) (s : State) : Host.Outcome State Fault Refusal :=
  runCommand .writeSubPacketBit (writeSubPacketBitCheck r.toNat) (writeSubPacketBitBody r.toNat (bit == 1#1)) s

/-! ## WRITE_BIT_IDX -/

/-- The body of WRITE_BIT_IDX (R122): a raw stream index, the cursor untouched. -/
def writeBitIdxBody (r idx : Nat) (v : Bool) (s : State) : Word × State :=
  (0, s.setBurst r { s.burst r with bits := burstBitWrite (s.burst r).bits idx v })

/-- WRITE_BIT_IDX (R122). -/
def execWriteBitIdx (r : BitVec 9) (idx : BitVec 6) (bit : BitVec 1) (s : State) :
    Host.Outcome State Fault Refusal :=
  runCommand .writeBitIdx
    (fun _ => firstError [(badRecord r.toNat || decide (idx.toNat > 39), .operandRange)])
    (writeBitIdxBody r.toNat idx.toNat (bit == 1#1)) s

/-! ## ADD_MIDAMBLE -/

/-- The midamble of a record (R123): the core sequence below 24, the extension sequence from 24 on. -/
def midamble (r : Nat) : BitVec 12 := if r < coreBursts then 0b011101000010#12 else 0b010011111010#12

/-- The bits after `ADD_MIDAMBLE` (R123): the leftmost digit at payload position 12. -/
def withMidamble (r : Nat) (b : BurstBits) : BurstBits :=
  forRange 0 midambleBits (fun j t => burstBitWrite t (12 + j + headBits) ((midamble r).getLsbD (11 - j))) b

/-- The body of ADD_MIDAMBLE (R123). -/
def addMidambleBody (r : Nat) (s : State) : Word × State :=
  (0, s.setBurst r { s.burst r with bits := withMidamble r (s.burst r).bits })

/-- ADD_MIDAMBLE (R123). -/
def execAddMidamble (r : BitVec 9) (s : State) : Host.Outcome State Fault Refusal :=
  runCommand .addMidamble (fun _ => firstError [(badRecord r.toNat, .operandRange)]) (addMidambleBody r.toNat) s

/-! ## DIFF_MSK -/

/-- The loop of DIFF_MSK (R124): each output bit is the input bit XOR the previous output bit, seed 0. -/
def integrate (b : BurstBits) : BurstBits :=
  (forRange 0 burstLength
    (fun i (p : Bool × BurstBits) =>
      let v := burstBit p.2 i ^^ p.1
      (v, burstBitWrite p.2 i v))
    (false, b)).2

/-- The bits after DIFF_MSK (R124): integrated over all 40 stream bits, then stream bit 0 forced to 1. -/
def diffMskBits (b : BurstBits) : BurstBits := burstBitWrite (integrate b) 0 true

/-- The body of DIFF_MSK (R124). -/
def diffMskBody (r : Nat) (s : State) : Word × State :=
  (0, s.setBurst r { s.burst r with bits := diffMskBits (s.burst r).bits })

/-- DIFF_MSK (R124). -/
def execDiffMsk (r : BitVec 9) (s : State) : Host.Outcome State Fault Refusal :=
  runCommand .diffMsk (fun _ => firstError [(badRecord r.toNat, .operandRange)]) (diffMskBody r.toNat) s

/-! ## PUNCTURE -/

/-- The sentinel carrier offset of a punctured burst (R126). -/
def punctured : BitVec 16 := 0xFFFF#16

/-- The body of PUNCTURE (R126). -/
def punctureBody (r : Nat) (s : State) : Word × State :=
  (0, s.setBurst r { s.burst r with carrier := punctured })

/-- PUNCTURE (R126). -/
def execPuncture (r : BitVec 9) (s : State) : Host.Outcome State Fault Refusal :=
  runCommand .puncture (fun _ => firstError [(badRecord r.toNat, .operandRange)]) (punctureBody r.toNat) s

end Sys2Proof.Machine
end

