-- ==== Sys2Proof/Machine/Phy.lean ====
section
/-! DEFINITION. PHY framing, the CRC-8 generator, the whitener, the convolutional encoder and the interleaver
(44_phy_coding.md). -/

namespace Sys2Proof.Machine

/-! ## Burst count -/

/-- `NumBursts(m)` (R136). -/
def numBurstsOf (m : Nat) : Nat := if m > 255 then 0 else if m < 20 then 24 else m + 4

/-- NUM_BURSTS (R137): writes nothing but STATUS and RESULT. -/
def execNumBursts (n : BitVec 9) (s : State) : Host.Outcome State Fault Refusal :=
  runCommand .numBursts (fun _ => firstError [(tooLong n.toNat, .payloadTooLong)])
    (fun t => (BitVec.ofNat 32 (numBurstsOf n.toNat), t)) s

/-! ## CRC-8 -/

/-- One bit of the CRC-8 procedure (R138). -/
def crc8Step (reg : Byte) (bit : Bool) : Byte :=
  if reg.getLsbD 7 ^^ bit then (reg <<< 1) ^^^ 0x9B#8 else reg <<< 1

/-- `Crc8(buf, start, n)` (R138). -/
def crc8Of (buf : Nat → Byte) (start n : Nat) : Byte :=
  forRange 0 n (fun j reg => crc8Step reg (bitRead buf (start + j))) 0xFF#8

/-- CRC8 (R139): changes no state but STATUS and RESULT. -/
def execCrc8 (bstart blen : BitVec 12) (s : State) : Host.Outcome State Fault Refusal :=
  runCommand .crc8 (fun _ => firstError [(badPhyBits bstart.toNat blen.toNat, .operandRange)])
    (fun t => ((crc8Of (t.byte .phybuf) bstart.toNat blen.toNat).setWidth 32, t)) s

/-! ## PHY buffer assembly -/

/-- PHYBUF[2..nb-1] as PHY_ASSEMBLE fills it (R140): PSI, the MPDU, zero-stuffing below 20 bytes, MMODE in the top two
bits of the last byte and its low six bits 0. -/
def phyBody (m : Nat) (mmode : BitVec 2) (mpdu : List Byte) : List Byte :=
  BitVec.ofNat 8 m :: mpdu ++ List.replicate (20 - m) 0#8 ++ [mmode ++ 0#6]

/-- A list of bytes read as a byte memory. -/
def listBuf (bs : List Byte) (i : Nat) : Byte := bs.getD i 0#8

/-- `pc` of R140: the CRC-8 of 8m + 2 bits from stream bit 24, which is bit 8 of PHYBUF[2..]. -/
def payloadCrc (m : Nat) (body : List Byte) : Byte := crc8Of (listBuf body) 8 (8 * m + 2)

/-- `hc` of R140: the CRC-8 of PHYBUF[1..2], the payload CRC and PSI. -/
def headerCrc (pc : Byte) (body : List Byte) : Byte := crc8Of (listBuf (pc :: body)) 0 16

/-- The body of PHY_ASSEMBLE (R140): PHYBUF[0..nb-1], the CRC registers and NUM_BURSTS. The bytes are computed from
MPDU and stored at once (log 13). -/
def phyAssembleBody (m : Nat) (mmode : BitVec 2) (s : State) : Word × State :=
  let body := phyBody m mmode (s.bytes .mpdu 0 m)
  let pc := payloadCrc m body
  let hc := headerCrc pc body
  let t := s.setBytes .phybuf 0 (hc :: pc :: body)
  (BitVec.ofNat 32 (numBurstsOf m),
    { t with crcPay := pc, crcHdr := hc, numBursts := BitVec.ofNat 9 (numBurstsOf m) })

/-- PHY_ASSEMBLE (R140). -/
def execPhyAssemble (mlen : BitVec 9) (mmode : BitVec 2) (s : State) : Host.Outcome State Fault Refusal :=
  runCommand .phyAssemble (fun _ => firstError [(tooLong mlen.toNat, .payloadTooLong)])
    (phyAssembleBody mlen.toNat mmode) s

/-! ## Whitener -/

/-- One step of the whitening register (R141), kept to 16 bits. -/
def whitenStep (reg : BitVec 16) : BitVec 16 := (reg <<< 1) ^^^ (((reg >>> 9) ^^^ (reg >>> 4)) &&& 1#16)

/-- The register after the eight steps of one byte (R141). -/
def whitenStep8 (reg : BitVec 16) : BitVec 16 := forRange 0 8 (fun _ r => whitenStep r) reg

/-- The bytes XORed in order with the low byte of the register, advanced before each, and the final register (R141). -/
def whitenBytes : BitVec 16 → List Byte → List Byte × BitVec 16
  | reg, [] => ([], reg)
  | reg, b :: bs =>
    let reg' := whitenStep8 reg
    let rest := whitenBytes reg' bs
    ((b ^^^ reg'.setWidth 8) :: rest.1, rest.2)

/-- The body of WHITEN (R141): the last byte is masked with 0xC0 after it is whitened. -/
def whitenBody (n : Nat) (s : State) : Word × State :=
  let w := whitenBytes 0x1FF#16 (s.bytes .phybuf 0 n)
  let t := s.setBytes .phybuf 0 w.1
  let u := t.setByte .phybuf (n - 1) (t.byte .phybuf (n - 1) &&& 0xC0#8)
  (0, { u with whitenLfsr := w.2 })

/-- WHITEN (R141). -/
def execWhiten (n : BitVec 9) (s : State) : Host.Outcome State Fault Refusal :=
  runCommand .whiten
    (fun _ => firstError [(decide (n.toNat < 1) || decide (n.toNat > maxDataBursts), .operandRange)])
    (whitenBody n.toNat) s

/-! ## Convolutional encoder and interleaver -/

/-- `Route(o, nb)` (R143): the burst of coded bit `o`. -/
def route (o nb : Nat) : Nat :=
  if o < 288 then o % 24
  else
    let g := o - 288
    let gl := nb - 12
    let grp := g / gl
    let gi := g % gl
    if gi < 12 then 2 * gi + grp % 2 else gi + 12

/-- The polynomials G1, G2, G3 (R144). -/
def convPoly (k : Nat) : BitVec 7 :=
  match k with
  | 0 => 0x5B#7
  | 1 => 0x65#7
  | _ => 0x7D#7

/-- The 6-bit memory after one more input bit: the low six bits of the window (R144). -/
def convShift (sr : BitVec 6) (x : Bool) : BitVec 6 := (sr <<< 1) ||| (BitVec.ofBool x).setWidth 6

/-- The 7-bit window, newest bit in bit 0 (R144). -/
def convWindow (sr : BitVec 6) (x : Bool) : BitVec 7 := (sr.setWidth 7 <<< 1) ||| (BitVec.ofBool x).setWidth 7

/-- The memory preloaded with the eight stream bits at P - 16 + (0..7) (R144). -/
def convPreload (buf : Nat → Byte) (p : Nat) : BitVec 6 :=
  forRange 0 8 (fun j sr => convShift sr (bitRead buf ((p - 16 + j) % p))) 0#6

/-- Input bit `i` of the encoder: stream bit (i - 16) mod P (R144). -/
def convInput (buf : Nat → Byte) (p i : Nat) : Bool := bitRead buf ((i + p - 16) % p)

/-- The three coded bits of one input bit, each appended to its burst (R144). -/
def convScatter (i nb : Nat) (w : BitVec 7) (b : Bursts) : Bursts :=
  forRange 0 3
    (fun k b =>
      let r := route (3 * i + k) nb
      b.put r (pushDataBit r (parity (convPoly k &&& w)) (b.rec r)))
    b

/-- The encoder's loop over the P input bits (R144): the memory and the records. -/
def convLoop (buf : Nat → Byte) (nb : Nat) (b : Bursts) : BitVec 6 × Bursts :=
  let p := 8 * nb
  forRange 0 p
    (fun i (t : BitVec 6 × Bursts) =>
      let x := convInput buf p i
      (convShift t.1 x, convScatter i nb (convWindow t.1 x) t.2))
    (convPreload buf p, b)

/-- Some record below `n` has a cursor that is not 0 (R144). -/
def cursorBusy (n : Nat) (s : State) : Bool := (List.range n).any (fun r => (s.burst r).cursor != 0#5)

/-- The checks of CONV_INTERLEAVE (R144). -/
def convInterleaveCheck (n : Nat) (s : State) : CheckResult :=
  firstError [(badBurstCount n, .operandRange), (cursorBusy n s, .operandRange)]

/-- The body of CONV_INTERLEAVE (R144). -/
def convInterleaveBody (n : Nat) (s : State) : Word × State :=
  let c := convLoop (s.byte .phybuf) n s.bursts
  (0, { s with bursts := c.2, convSr := c.1 })

/-- CONV_INTERLEAVE (R144). -/
def execConvInterleave (n : BitVec 9) (s : State) : Host.Outcome State Fault Refusal :=
  runCommand .convInterleave (convInterleaveCheck n.toNat) (convInterleaveBody n.toNat) s

end Sys2Proof.Machine
end

