-- ==== Sys2Proof/Config.lean ====
section
/-! DEFINITION. What the spec leaves to the platform or leaves open: constants without a body (log 6, log 7). -/

namespace Sys2Proof.Config

/-- R7, D27 (OPEN): `TSMA_C_RB(upg, pattern, i)`, a carrier index in 0..23, for every entry but the one row
R7 transcribes (Machine/Tsma.lean holds that row). No value of it is known: a free value (log 6). -/
opaque tsmaCRbOpen (upg : BitVec 2) (pattern : BitVec 3) (i : Nat) : Fin 24

/-- R7, D27 (OPEN): `TSMA_T_RB(upg, pattern, i)`, a core burst's delay to the next burst in symbols, a 16-bit
value. No entry is known: a free value (log 6). -/
opaque tsmaTRb (upg : BitVec 2) (pattern : BitVec 3) (i : Nat) : BitVec 16

/-- R61, D3: `CORE_BASE`, where the CORE sits in the platform's address space. Every address of the model is an
offset from it (log 7). -/
opaque coreBase : Nat

/-- The platform's address of a host-space offset (R61). -/
def systemAddress (a : HostAddr) : Nat := coreBase + a.toNat

end Sys2Proof.Config
end

