-- ==== Sys2Proof/Machine/Aes.lean ====
section
/-! DEFINITION. The AES-128 cipher and AES_BLOCK (41_aes_cmac.md R106 to R112). -/

namespace Sys2Proof.Machine

/-- `xtime(a)` (R107): the shift in 9 bits, reduced by 0x11B, truncated to 8 bits. -/
def xtime (a : Byte) : Byte :=
  ((a.setWidth 9 <<< 1) ^^^ (if a &&& 0x80#8 ≠ 0#8 then 0x11B#9 else 0#9)).setWidth 8

/-- `gmul(a, 2)` (R107). -/
def gmul2 (a : Byte) : Byte := xtime a

/-- `gmul(a, 3)` (R107). -/
def gmul3 (a : Byte) : Byte := xtime a ^^^ a

/-- The S-box table of R108: a row for each high digit, a column for each low digit. -/
def sboxRows : List (List Byte) :=
  [[0x63#8, 0x7c#8, 0x77#8, 0x7b#8, 0xf2#8, 0x6b#8, 0x6f#8, 0xc5#8, 0x30#8, 0x01#8, 0x67#8, 0x2b#8, 0xfe#8, 0xd7#8, 0xab#8, 0x76#8],
   [0xca#8, 0x82#8, 0xc9#8, 0x7d#8, 0xfa#8, 0x59#8, 0x47#8, 0xf0#8, 0xad#8, 0xd4#8, 0xa2#8, 0xaf#8, 0x9c#8, 0xa4#8, 0x72#8, 0xc0#8],
   [0xb7#8, 0xfd#8, 0x93#8, 0x26#8, 0x36#8, 0x3f#8, 0xf7#8, 0xcc#8, 0x34#8, 0xa5#8, 0xe5#8, 0xf1#8, 0x71#8, 0xd8#8, 0x31#8, 0x15#8],
   [0x04#8, 0xc7#8, 0x23#8, 0xc3#8, 0x18#8, 0x96#8, 0x05#8, 0x9a#8, 0x07#8, 0x12#8, 0x80#8, 0xe2#8, 0xeb#8, 0x27#8, 0xb2#8, 0x75#8],
   [0x09#8, 0x83#8, 0x2c#8, 0x1a#8, 0x1b#8, 0x6e#8, 0x5a#8, 0xa0#8, 0x52#8, 0x3b#8, 0xd6#8, 0xb3#8, 0x29#8, 0xe3#8, 0x2f#8, 0x84#8],
   [0x53#8, 0xd1#8, 0x00#8, 0xed#8, 0x20#8, 0xfc#8, 0xb1#8, 0x5b#8, 0x6a#8, 0xcb#8, 0xbe#8, 0x39#8, 0x4a#8, 0x4c#8, 0x58#8, 0xcf#8],
   [0xd0#8, 0xef#8, 0xaa#8, 0xfb#8, 0x43#8, 0x4d#8, 0x33#8, 0x85#8, 0x45#8, 0xf9#8, 0x02#8, 0x7f#8, 0x50#8, 0x3c#8, 0x9f#8, 0xa8#8],
   [0x51#8, 0xa3#8, 0x40#8, 0x8f#8, 0x92#8, 0x9d#8, 0x38#8, 0xf5#8, 0xbc#8, 0xb6#8, 0xda#8, 0x21#8, 0x10#8, 0xff#8, 0xf3#8, 0xd2#8],
   [0xcd#8, 0x0c#8, 0x13#8, 0xec#8, 0x5f#8, 0x97#8, 0x44#8, 0x17#8, 0xc4#8, 0xa7#8, 0x7e#8, 0x3d#8, 0x64#8, 0x5d#8, 0x19#8, 0x73#8],
   [0x60#8, 0x81#8, 0x4f#8, 0xdc#8, 0x22#8, 0x2a#8, 0x90#8, 0x88#8, 0x46#8, 0xee#8, 0xb8#8, 0x14#8, 0xde#8, 0x5e#8, 0x0b#8, 0xdb#8],
   [0xe0#8, 0x32#8, 0x3a#8, 0x0a#8, 0x49#8, 0x06#8, 0x24#8, 0x5c#8, 0xc2#8, 0xd3#8, 0xac#8, 0x62#8, 0x91#8, 0x95#8, 0xe4#8, 0x79#8],
   [0xe7#8, 0xc8#8, 0x37#8, 0x6d#8, 0x8d#8, 0xd5#8, 0x4e#8, 0xa9#8, 0x6c#8, 0x56#8, 0xf4#8, 0xea#8, 0x65#8, 0x7a#8, 0xae#8, 0x08#8],
   [0xba#8, 0x78#8, 0x25#8, 0x2e#8, 0x1c#8, 0xa6#8, 0xb4#8, 0xc6#8, 0xe8#8, 0xdd#8, 0x74#8, 0x1f#8, 0x4b#8, 0xbd#8, 0x8b#8, 0x8a#8],
   [0x70#8, 0x3e#8, 0xb5#8, 0x66#8, 0x48#8, 0x03#8, 0xf6#8, 0x0e#8, 0x61#8, 0x35#8, 0x57#8, 0xb9#8, 0x86#8, 0xc1#8, 0x1d#8, 0x9e#8],
   [0xe1#8, 0xf8#8, 0x98#8, 0x11#8, 0x69#8, 0xd9#8, 0x8e#8, 0x94#8, 0x9b#8, 0x1e#8, 0x87#8, 0xe9#8, 0xce#8, 0x55#8, 0x28#8, 0xdf#8],
   [0x8c#8, 0xa1#8, 0x89#8, 0x0d#8, 0xbf#8, 0xe6#8, 0x42#8, 0x68#8, 0x41#8, 0x99#8, 0x2d#8, 0x0f#8, 0xb0#8, 0x54#8, 0xbb#8, 0x16#8]]

/-- `SBOX[x]`: row x[7:4], column x[3:0] (R108). -/
def sbox (x : Byte) : Byte := (sboxRows.getD (x.toNat / 16) []).getD (x.toNat % 16) 0#8

/-- RCON (R109). -/
def rcon : List Byte := [0x01#8, 0x02#8, 0x04#8, 0x08#8, 0x10#8, 0x20#8, 0x40#8, 0x80#8, 0x1B#8, 0x36#8]

/-- Byte `i` of a 4-byte key word, byte 0 first. -/
def wordByte (t : Word) (i : Nat) : Byte := t.extractLsb' (24 - 8 * i) 8

/-- RotWord (R109). -/
def rotWord (t : Word) : Word := be32 (wordByte t 1) (wordByte t 2) (wordByte t 3) (wordByte t 0)

/-- SubWord (R109). -/
def subWord (t : Word) : Word :=
  be32 (sbox (wordByte t 0)) (sbox (wordByte t 1)) (sbox (wordByte t 2)) (sbox (wordByte t 3))

/-- One step of the key expansion (R109): `w[i]` in front of `w[i-1], w[i-2], …`. -/
def keyStep (i : Nat) (ws : List Word) : List Word :=
  let t := ws.getD 0 0
  let t' := if i % 4 = 0 then subWord (rotWord t) ^^^ be32 (rcon.getD (i / 4 - 1) 0) 0 0 0 else t
  (ws.getD 3 0 ^^^ t') :: ws

/-- The key's word `i`, i in 0..3: `key[4i .. 4i+3]` (R109). -/
def keyWord (k : Block) (i : Nat) : Word := k.extractLsb' (96 - 32 * i) 32

/-- `w[0..43]` (R109). -/
def keyWords (k : Block) : List Word :=
  (forRange 4 44 keyStep [keyWord k 3, keyWord k 2, keyWord k 1, keyWord k 0]).reverse

/-- `RK_k` of an expanded key (R109). -/
def roundKey (ws : List Word) (k : Nat) : Block :=
  ws.getD (4 * k) 0 ++ ws.getD (4 * k + 1) 0 ++ ws.getD (4 * k + 2) 0 ++ ws.getD (4 * k + 3) 0

/-- `s[r][c]`, the block's byte r + 4c (R106). -/
def cell (x : Block) (r c : Nat) : Byte := blockByte x (r + 4 * c)

/-- The block whose state is `f r c` (R106). -/
def blockOfCells (f : Nat → Nat → Byte) : Block :=
  blockOfBytes ((List.range 16).map (fun i => f (i % 4) (i / 4)))

/-- SubBytes (R110). -/
def subBytes (x : Block) : Block := blockOfCells (fun r c => sbox (cell x r c))

/-- ShiftRows (R110). -/
def shiftRows (x : Block) : Block := blockOfCells (fun r c => cell x r ((c + r) % 4))

/-- Row `r` of a mixed column (R110). -/
def mixRow (r : Nat) (a0 a1 a2 a3 : Byte) : Byte :=
  match r with
  | 0 => gmul2 a0 ^^^ gmul3 a1 ^^^ a2 ^^^ a3
  | 1 => a0 ^^^ gmul2 a1 ^^^ gmul3 a2 ^^^ a3
  | 2 => a0 ^^^ a1 ^^^ gmul2 a2 ^^^ gmul3 a3
  | _ => gmul3 a0 ^^^ a1 ^^^ a2 ^^^ gmul2 a3

/-- MixColumns (R110). -/
def mixColumns (x : Block) : Block :=
  blockOfCells (fun r c => mixRow r (cell x 0 c) (cell x 1 c) (cell x 2 c) (cell x 3 c))

/-- AddRoundKey (R106, R110): the round key has the block's byte order. -/
def addRoundKey (rk x : Block) : Block := x ^^^ rk

/-- `AES(K, X)` (R111). -/
def aes (k x : Block) : Block :=
  let ws := keyWords k
  let s := forRange 1 10 (fun i t => addRoundKey (roundKey ws i) (mixColumns (shiftRows (subBytes t))))
    (addRoundKey (roundKey ws 0) x)
  addRoundKey (roundKey ws 10) (shiftRows (subBytes s))

/-- The body of AES_BLOCK (R112). -/
def aesBlockBody (s : State) : Word × State := (0, s.setBlock .aesOut (aes (s.block .key) (s.block .aesIn)))

/-- AES_BLOCK (R112): needs no lock. -/
def execAesBlock (s : State) : Host.Outcome State Fault Refusal :=
  runCommand .aesBlock (fun _ => none) aesBlockBody s

end Sys2Proof.Machine
end

