-- ==== Sys2Proof/Machine/Cmac.lean ====
section
/-! DEFINITION. The CMAC tagger, the IV blocks it shares with the encryptor, CMAC_SUBKEYS and CMAC
(41_aes_cmac.md R113 to R118; 43_mac.md R130). -/

namespace Sys2Proof.Machine

/-- `Dbl(B)` (R113): one bit left, and Rb = 0x87 into byte 15 if the bit shifted out was 1. -/
def dbl (b : Block) : Block := if b.msb then (b <<< 1) ^^^ 0x87#128 else b <<< 1

/-- `K1` of `Subkeys(K)` (R114). -/
def subkey1 (k : Block) : Block := dbl (aes k 0#128)

/-- `K2` of `Subkeys(K)` (R114). -/
def subkey2 (k : Block) : Block := dbl (subkey1 k)

/-- A message's last block before it is chained (R115): complete blocks take K1, others are padded with 0x80 then
zeros and take K2. `n` is the number of blocks. -/
def cmacLast (k : Block) (msg : List Byte) (n : Nat) (complete : Bool) : Block :=
  let tail := msg.drop (16 * (n - 1))
  if complete then blockOfBytes tail ^^^ subkey1 k
  else blockOfBytes (tail ++ 0x80#8 :: List.replicate (15 - tail.length) 0#8) ^^^ subkey2 k

/-- `CMAC(K, M)` (R115). -/
def cmac (k : Block) (msg : List Byte) : Block :=
  let n := if msg.length = 0 then 1 else ceilDiv msg.length 16
  let complete := decide (msg.length ≠ 0) && decide (msg.length % 16 = 0)
  let x := forRange 0 (n - 1) (fun i x => aes k (x ^^^ blockOfBytes ((msg.drop (16 * i)).take 16))) 0#128
  aes k (x ^^^ cmacLast k msg n complete)

/-- DATA_DIRECTION (R130). -/
def dataDirection : Byte := 0x00#8

/-- `IVbase`, 14 bytes: EUI64, 0x00, DATA_DIRECTION, the EPC big-endian (R130). -/
def ivBase (s : State) : List Byte := s.bytes .eui64 0 8 ++ [0x00#8, dataDirection] ++ bytesBE 4 s.epc

/-- `CmacIV()` (R130). -/
def cmacIv (s : State) : List Byte := ivBase s ++ [0xFF#8, 0xFF#8]

/-- `CtrIV(b)` (R130). -/
def ctrIv (s : State) (b : Nat) : List Byte := ivBase s ++ [0x00#8, BitVec.ofNat 8 b]

/-- `(K1, K2) <- Subkeys(KEY)` (R114). -/
def writeSubkeys (s : State) : State :=
  let k := s.block .key
  (s.setBlock .k1 (subkey1 k)).setBlock .k2 (subkey2 k)

/-- The body of CMAC_SUBKEYS (R117). -/
def cmacSubkeysBody (s : State) : Word × State := (0, writeSubkeys s)

/-- CMAC_SUBKEYS (R117): needs no lock. -/
def execCmacSubkeys (s : State) : Host.Outcome State Fault Refusal :=
  runCommand .cmacSubkeys (fun _ => none) cmacSubkeysBody s

/-- The first four bytes of a tag as a big-endian word (R118). -/
def micWord (t : Block) : Word := be32 (blockByte t 0) (blockByte t 1) (blockByte t 2) (blockByte t 3)

/-- The checks of CMAC (R118): the slice, then the locks when the IV is asked for. -/
def cmacCheck (start len : Nat) (ivp : Bool) (s : State) : CheckResult :=
  firstError [(badMpduSlice start len, .operandRange), (ivp && locksMissing s, .configError)]

/-- The message CMAC authenticates: a slice of MPDU, after the IV when IVP = 1 (R116, R118). -/
def cmacMessage (start len : Nat) (ivp : Bool) (s : State) : List Byte :=
  if ivp then cmacIv s ++ s.bytes .mpdu start len else s.bytes .mpdu start len

/-- The body of CMAC (R118). -/
def cmacBody (start len : Nat) (ivp : Bool) (s : State) : Word × State :=
  let t := cmac (s.block .key) (cmacMessage start len ivp s)
  (micWord t, writeSubkeys (s.setBlock .tag t))

/-- CMAC (R118). -/
def execCmac (start : BitVec 8) (len : BitVec 9) (ivp : BitVec 1) (s : State) :
    Host.Outcome State Fault Refusal :=
  runCommand .cmac (cmacCheck start.toNat len.toNat (ivp == 1#1)) (cmacBody start.toNat len.toNat (ivp == 1#1)) s

end Sys2Proof.Machine
end

