-- ==== Sys2Proof/Machine/Control.lean ====
section
/-! DEFINITION. Control commands and the packet counter (40_control.md). -/

namespace Sys2Proof.Machine

/-- NOP (R100): nothing but STATUS and RESULT. -/
def execNop (s : State) : Host.Outcome State Fault Refusal :=
  runCommand .nop (fun _ => none) (fun t => (0, t)) s

/-- The EPC that EPC_LOAD sets from a persisted value (R101): 0 for the sentinel, else the value plus 256. -/
def loadedEpc (v : BitVec 24) : BitVec 32 := if v = 0xFFFFFF#24 then 0 else v.setWidth 32 + 256

/-- The body of EPC_LOAD (R101). -/
def epcLoadBody (s : State) : Word × State :=
  (loadedEpc s.epcLoadval, { s with epc := loadedEpc s.epcLoadval })

/-- EPC_LOAD (R101). -/
def execEpcLoad (s : State) : Host.Outcome State Fault Refusal :=
  runCommand .epcLoad (fun _ => none) epcLoadBody s

/-- The body of EPC_COMMIT (R104). -/
def epcCommitBody (s : State) : Word × State :=
  let store : BitVec 24 := s.epc.setWidth 24
  (store.setWidth 32, { s with epcStore := store, events := s.events.setPersistReq })

/-- EPC_COMMIT (R104). -/
def execEpcCommit (s : State) : Host.Outcome State Fault Refusal :=
  runCommand .epcCommit (fun _ => none) epcCommitBody s

/-- EpcIncrement() (R102): modulo 2^32, with a persist request when the low byte becomes 0. -/
def epcIncrement (s : State) : State :=
  let e := s.epc + 1
  let rolled := e.setWidth 8 == 0#8
  { s with
    epc := e
    epcStore := if rolled then e.setWidth 24 else s.epcStore
    events := if rolled then s.events.setPersistReq else s.events }

end Sys2Proof.Machine
end

