-- ==== Sys2Proof/Machine/Mac.lean ====
section
/-! DEFINITION. MAC framing, the AES-128-CTR encryptor and the MPDU encoder (43_mac.md). -/

namespace Sys2Proof.Machine

/-- `Hdr(mpf_present)` (R128): ADDR_LONG in bit 5, mpf_present in bit 1. -/
def macHeader (s : State) (mpf : Bool) : Byte :=
  ((BitVec.ofBool s.ctrl.addrLong).setWidth 8 <<< 5) ||| ((BitVec.ofBool mpf).setWidth 8 <<< 1)

/-- `ShortAddr()`, two bytes in wire order (R129). -/
def shortAddr (s : State) : List Byte :=
  if s.ctrl.shortOvrEn then bytesBE 2 s.shortAddrOvr else [s.byte .eui64 6, s.byte .eui64 7]

/-- `Addr()`, 8 or 2 bytes (R129). -/
def macAddr (s : State) : List Byte := if s.ctrl.addrLong then s.bytes .eui64 0 8 else shortAddr s

/-- `LsbShortAddr()`, the second byte of the short address (R129). -/
def lsbShortAddr (s : State) : Byte :=
  if s.ctrl.shortOvrEn then s.shortAddrOvr.setWidth 8 else s.byte .eui64 7

/-- `MpduLength(len, mpf_present)` (R132). -/
def mpduLength (s : State) (len : Nat) (mpf : Bool) : Nat :=
  10 + len + (if mpf then 1 else 0) + (if s.ctrl.addrLong then 6 else 0)

/-- The keystream blocks 0, 1, … of R133, enough for `n` bytes. -/
def keystream (s : State) (n : Nat) : List Byte :=
  (List.range (ceilDiv n 16)).flatMap (fun b => blockBytes (aes (s.block .key) (blockOfBytes (ctrIv s b))))

/-- Bytes XORed with the keystream, a short last block using the first bytes of its own (R133). -/
def ctrXor (s : State) (bs : List Byte) : List Byte :=
  List.zipWith (fun b k => b ^^^ k) bs (keystream s bs.length)

/-- The checks of CTR_CRYPT (R133). -/
def ctrCryptCheck (start len : Nat) (s : State) : CheckResult :=
  firstError [(badMpduSlice start len, .operandRange), (locksMissing s, .configError)]

/-- The body of CTR_CRYPT (R133); its RESULT is the number of keystream blocks. -/
def ctrCryptBody (start len : Nat) (s : State) : Word × State :=
  (BitVec.ofNat 32 (ceilDiv len 16), s.setBytes .mpdu start (ctrXor s (s.bytes .mpdu start len)))

/-- CTR_CRYPT (R133). -/
def execCtrCrypt (start : BitVec 8) (len : BitVec 9) (s : State) : Host.Outcome State Fault Refusal :=
  runCommand .ctrCrypt (ctrCryptCheck start.toNat len.toNat) (ctrCryptBody start.toNat len.toNat) s

/-- The MPDU up to `begin_encrypted`: header, address, EPC[23:0] (R131; steps 1 to 3 of R134). -/
def mpduPrefix (s : State) (mpf : Bool) : List Byte :=
  macHeader s mpf :: macAddr s ++ bytesBE 3 s.epc

/-- What is encrypted: the MPF byte if present, then the payload (R131; step 4 of R134). -/
def mpduPlain (s : State) (len : Nat) (mpf : Bool) (mpfv : Byte) : List Byte :=
  (if mpf then [mpfv] else []) ++ s.bytes .payload 0 len

/-- The MPDU through its last ciphertext byte (R131; step 5 of R134). -/
def mpduUnsigned (s : State) (len : Nat) (mpf : Bool) (mpfv : Byte) : List Byte :=
  mpduPrefix s mpf ++ ctrXor s (mpduPlain s len mpf mpfv)

/-- The tag of the MPDU, under the CMAC IV (step 6 of R134). -/
def mpduTag (s : State) (len : Nat) (mpf : Bool) (mpfv : Byte) : Block :=
  cmac (s.block .key) (cmacIv s ++ mpduUnsigned s len mpf mpfv)

/-- The whole MPDU: its MIC is the tag's first four bytes (R131). -/
def mpduBytes (s : State) (len : Nat) (mpf : Bool) (mpfv : Byte) : List Byte :=
  mpduUnsigned s len mpf mpfv ++ (blockBytes (mpduTag s len mpf mpfv)).take 4

/-- The checks of MAC_ENCODE, in their order (R134). -/
def macEncodeCheck (len : Nat) (mpf : Bool) (mpfv : Byte) (s : State) : CheckResult :=
  firstError [(!mpf && mpfv != 0#8, .operandRange), (locksMissing s, .configError),
    (tooLong (mpduLength s len mpf), .payloadTooLong)]

/-- The body of MAC_ENCODE (R134). The pseudocode fills MPDU[0..m-1] in place; here its bytes are computed from the
state before the command and stored at once, which leaves the same bytes (log 13). -/
def macEncodeBody (len : Nat) (mpf : Bool) (mpfv : Byte) (s : State) : Word × State :=
  let m := mpduLength s len mpf
  let t := writeSubkeys ((s.setBytes .mpdu 0 (mpduBytes s len mpf mpfv)).setBlock .tag (mpduTag s len mpf mpfv))
  (BitVec.ofNat 32 m, epcIncrement { t with mpduLen := BitVec.ofNat 9 m })

/-- MAC_ENCODE (R134). -/
def execMacEncode (len : BitVec 9) (mpf : BitVec 1) (mpfv : BitVec 8) (s : State) :
    Host.Outcome State Fault Refusal :=
  runCommand .macEncode (macEncodeCheck len.toNat (mpf == 1#1) mpfv) (macEncodeBody len.toNat (mpf == 1#1) mpfv) s

end Sys2Proof.Machine
end

