-- ==== Sys2Proof/Machine/Tsma.lean ====
section
/-! DEFINITION. The TSMA burst scheduler, the channel frequency, the CRC-2 generator and the sync burst
(45_tsma_sync.md). -/

namespace Sys2Proof.Machine

/-! ## TSMA burst scheduler -/

/-- `LfsrStep(s)`, the Galois LFSR (R147). -/
def lfsrNext (s : BitVec 16) : BitVec 16 := if s.getLsbD 0 then (s >>> 1) ^^^ 0xB4F3#16 else s >>> 1

/-- LFSR_STEP (R149). -/
def execLfsrStep (s : State) : Host.Outcome State Fault Refusal :=
  runCommand .lfsrStep (fun _ => none)
    (fun t => ((lfsrNext t.tsmaLfsr).setWidth 32, { t with tsmaLfsr := lfsrNext t.tsmaLfsr })) s

/-- The one row of `TSMA_C_RB` the spec transcribes: UPG1, pattern 0 (R7). -/
def upg1Pattern0 : List Nat := [5, 21, 13, 6, 22, 14, 1, 17, 9, 0, 16, 8, 7, 23, 15, 4, 20, 12, 3, 19, 11, 2, 18, 10]

/-- `TSMA_C_RB(upg, pattern, i)` (R7): the transcribed row, and a free value in 0..23 elsewhere (log 6). -/
def tsmaCRb (upg : BitVec 2) (pattern : BitVec 3) (i : Nat) : Nat :=
  if upg = 1#2 ∧ pattern = 0#3 then upg1Pattern0.getD i 0 else (Config.tsmaCRbOpen upg pattern i).val

/-- `time_spacing_upg` (R150): 66 for UPG3, 337 otherwise. -/
def timeSpacing (upg : BitVec 2) : Nat := if upg = 3#2 then 66 else 337

/-- The LFSR seed of the extension schedule (R150). -/
def tsmaSeed (hdr pay : Byte) : BitVec 16 := 0x8000#16 ||| (hdr ++ pay)

/-- The pattern the core bursts use (R150): 0 under UPG3. -/
def corePattern (upg : BitVec 2) (pat : BitVec 3) : BitVec 3 := if upg = 3#2 then 0#3 else pat

/-- The core loop of TSMA_ASSIGN: CARRIER and TRB of records 0..23 (R150). -/
def tsmaCore (upg : BitVec 2) (p : BitVec 3) (bc : BitVec 16) (b : Bursts) : Bursts :=
  forRange 0 24
    (fun i b =>
      b.put i { b.rec i with
        carrier := BitVec.ofNat 16 (tsmaCRb upg p i * bc.toNat)
        trb := Config.tsmaTRb upg p i })
    b

/-- The extension loop of TSMA_ASSIGN (R150): each step advances the LFSR, then sets this record's CARRIER and the
previous record's TRB. -/
def tsmaExtension (nb : Nat) (upg : BitVec 2) (bc : BitVec 16) (seed : BitVec 16) (b : Bursts) :
    BitVec 16 × Bursts :=
  forRange 24 nb
    (fun i (t : BitVec 16 × Bursts) =>
      let s := lfsrNext t.1
      let b := t.2.put i { t.2.rec i with carrier := BitVec.ofNat 16 ((s >>> 8).toNat % 25 * bc.toNat) }
      (s, b.put (i - 1) { b.rec (i - 1) with trb := BitVec.ofNat 16 (timeSpacing upg + s.toNat % 128) }))
    (seed, b)

/-- The checks of TSMA_ASSIGN (R150, R151). -/
def tsmaAssignCheck (nb : Nat) (s : State) : CheckResult :=
  firstError [(badBurstCount nb, .operandRange), (regionBad s, .configError)]

/-- The body of TSMA_ASSIGN (R150). -/
def tsmaAssignBody (nb : Nat) (pat : BitVec 3) (s : State) : Word × State :=
  let core := tsmaCore s.upg (corePattern s.upg pat) s.bC s.bursts
  let ext := tsmaExtension nb s.upg s.bC (tsmaSeed s.crcHdr s.crcPay) core
  (0, { s with
    bursts := ext.2.put (nb - 1) { ext.2.rec (nb - 1) with trb := 0 }
    tsmaLfsr := ext.1 })

/-- TSMA_ASSIGN (R150). -/
def execTsmaAssign (nb : BitVec 9) (pat : BitVec 3) (s : State) : Host.Outcome State Fault Refusal :=
  runCommand .tsmaAssign (tsmaAssignCheck nb.toNat) (tsmaAssignBody nb.toNat pat) s

/-! ## Channel frequency -/

/-- `C_RF` (R152), signed. -/
def cRf (crcPay : Byte) (nCo : BitVec 4) : Int :=
  (((crcPay &&& 0x7F#8).toNat % nCo.toNat : Nat) : Int) - ((nCo.toNat / 2 : Nat) : Int)

/-- `F0Value()` in integer arithmetic (R152). -/
def f0Int (s : State) : Int :=
  let fc := if s.crcPay.getLsbD 7 then s.chanB else s.chanA
  (fc.toNat : Int) - 12 * (s.bC.toNat : Int) + cRf s.crcPay s.nCo * (s.bC0.toNat : Int)

/-- `F0Value()` as the u32 it is stored as; after RegionCheck it is in 1..0xFFFFFFFF (R152). -/
def f0Value (s : State) : BitVec 32 := BitVec.ofInt 32 (f0Int s)

/-- CALC_F0 (R153). -/
def execCalcF0 (s : State) : Host.Outcome State Fault Refusal :=
  runCommand .calcF0 (fun t => firstError [(regionBad t, .configError)])
    (fun t => (f0Value t, { t with f0 := f0Value t })) s

/-! ## CRC-2 -/

/-- One bit of the CRC-2 procedure (R154). -/
def crc2Step (reg : BitVec 2) (bit : Bool) : BitVec 2 :=
  if reg.getLsbD 1 ^^ bit then (reg <<< 1) ^^^ 0x3#2 else reg <<< 1

/-- `Crc2(buf, start, n)` over a bit stream (R154). -/
def crc2Of (bit : Nat → Bool) (start n : Nat) : BitVec 2 :=
  forRange 0 n (fun j reg => crc2Step reg (bit (start + j))) 0x3#2

/-- CRC2 (R155): changes no state but STATUS and RESULT. -/
def execCrc2 (bstart blen : BitVec 12) (s : State) : Host.Outcome State Fault Refusal :=
  runCommand .crc2 (fun _ => firstError [(badPhyBits bstart.toNat blen.toNat, .operandRange)])
    (fun t => ((crc2Of (bitRead (t.byte .phybuf)) bstart.toNat blen.toNat).setWidth 32, t)) s

/-! ## Sync burst -/

/-- The UPG byte of the sync sequence (R156). UPG 0 never gets here: RegionCheck refuses it first (R146, R157). -/
def upgByte (upg : BitVec 2) : Byte := if upg = 2#2 then 0x40#8 else if upg = 3#2 then 0x80#8 else 0x00#8

/-- The five bytes of `SyncSeq(pat)` before its CRC-2 (R156), as a 40-bit stream. -/
def syncSeqOpen (s : State) (pat : BitVec 3) : BurstBits :=
  0x33#8 ++ 0x3D#8 ++ (0x30#8 ||| pat.setWidth 8) ++ lsbShortAddr s ++ upgByte s.upg

/-- The CRC-2 of the sync sequence, over stream bits 20..33 (R156). -/
def syncCrc (s : State) (pat : BitVec 3) : BitVec 2 := crc2Of (burstBit (syncSeqOpen s pat)) 20 14

/-- `SyncSeq(pat)`: the sequence with its CRC-2 in stream bits 34 and 35, the earlier bit first (R154, R156). -/
def syncSeq (s : State) (pat : BitVec 3) : BurstBits :=
  burstBitWrite (burstBitWrite (syncSeqOpen s pat) 34 ((syncCrc s pat).getLsbD 1)) 35 ((syncCrc s pat).getLsbD 0)

/-- Sequence bits 0..35 at the payload positions of an all-zero burst (R157). -/
def syncPayload (seq : BurstBits) : BurstBits :=
  forRange 0 36 (fun j b => burstBitWrite b (j + headBits) (burstBit seq j)) 0#40

/-- The checks of SYNC_ENCODE (R157). -/
def syncEncodeCheck (s : State) : CheckResult :=
  firstError [(regionBad s, .configError), (!s.ctrl.euiLock, .configError)]

/-- The body of SYNC_ENCODE (R157): record 259. -/
def syncEncodeBody (pat : BitVec 3) (s : State) : Word × State :=
  ((syncCrc s pat).setWidth 32,
    s.setBurst syncRecord
      { bits := diffMskBits (syncPayload (syncSeq s pat))
        cursor := 0
        carrier := BitVec.ofNat 16 (24 * s.bC.toNat)
        trb := BitVec.ofNat 16 (timeSpacing s.upg) })

/-- SYNC_ENCODE (R157). -/
def execSyncEncode (pat : BitVec 3) (s : State) : Host.Outcome State Fault Refusal :=
  runCommand .syncEncode syncEncodeCheck (syncEncodeBody pat) s

/-! ## Pattern rotation -/

/-- `ORDER`, ORDER[0] first (R158). -/
def patternOrder : List Nat := [0, 1, 2, 3, 0, 1, 2, 3, 4, 0, 1, 2, 3, 4, 5]

/-- `ORDER[counter mod 15]` (R158). -/
def patternOf (counter : Nat) : Nat := patternOrder.getD (counter % 15) 0

/-- TSMA_PATTERN (R159): changes no state but STATUS and RESULT. -/
def execTsmaPattern (counter : BitVec 24) (s : State) : Host.Outcome State Fault Refusal :=
  runCommand .tsmaPattern (fun _ => none) (fun t => (BitVec.ofNat 32 (patternOf counter.toNat), t)) s

end Sys2Proof.Machine
end

