-- ==== Sys2Proof/Machine/Pipeline.lean ====
section
/-! DEFINITION. The PHY encode pipeline and SEND (46_pipeline.md). "Body of X" is command X's body without its
checks, which the composite has done first. -/

namespace Sys2Proof.Machine

/-- The checks of PHY_ENCODE, in their order (R160). -/
def phyEncodeCheck (mlen : Nat) (s : State) : CheckResult :=
  firstError [(regionBad s, .configError), (tooLong mlen, .payloadTooLong)]

/-- ADD_MIDAMBLE then DIFF_MSK on each of records 0..nb-1 (R160, §4.5.5). -/
def finishBursts (nb : Nat) (s : State) : State :=
  forRange 0 nb (fun r t => (diffMskBody r (addMidambleBody r t).2).2) s

/-- The steps of PHY_ENCODE up to and with TSMA_ASSIGN (R160, §4.5.1 to §4.5.6). -/
def phyEncodeBursts (mlen : Nat) (pat : BitVec 3) (mmode : BitVec 2) (s : State) : State :=
  let nb := numBurstsOf mlen
  let s1 := (phyAssembleBody mlen mmode s).2
  let s2 := (whitenBody nb s1).2
  let s3 := (burstClearBody nb s2).2
  let s4 := (convInterleaveBody nb s3).2
  let s5 := finishBursts nb s4
  (tsmaAssignBody nb pat s5).2

/-- The body of PHY_ENCODE (R160). -/
def phyEncodeBody (mlen : Nat) (pat : BitVec 3) (mmode : BitVec 2) (s : State) : Word × State :=
  let t := phyEncodeBursts mlen pat mmode s
  (f0Value t,
    { t with f0 := f0Value t, outInfo := { pattern := pat, sync := false }, events := t.events.setOutValid })

/-- PHY_ENCODE (R160). -/
def execPhyEncode (mlen : BitVec 9) (pat : BitVec 3) (mmode : BitVec 2) (s : State) :
    Host.Outcome State Fault Refusal :=
  runCommandF0 .phyEncode (phyEncodeCheck mlen.toNat) (phyEncodeBody mlen.toNat pat mmode) s

/-- Step 1 of SEND: `mpf_present = (mpf_value != 0)` (R162). -/
def sendMpf (mpfv : Byte) : Bool := mpfv != 0#8

/-- The checks of SEND, in their order (R162). -/
def sendCheck (len : Nat) (mpfv : Byte) (s : State) : CheckResult :=
  firstError [(locksMissing s, .configError), (regionBad s, .configError),
    (tooLong (mpduLength s len (sendMpf mpfv)), .payloadTooLong)]

/-- Step 5 of SEND: pattern 6 for a priority telegram, else the rotation by the counter this telegram carries, the
EPC before step 3 (R162). -/
def sendPattern (prio : Bool) (epcUsed : BitVec 32) : BitVec 3 :=
  if prio then 6#3 else BitVec.ofNat 3 (patternOf (epcUsed.setWidth 24).toNat)

/-- The body of SEND (R162): steps 3, 5, 6 and 7. -/
def sendBody (len : Nat) (prio : Bool) (mpfv : Byte) (s : State) : Word × State :=
  let pattern := sendPattern prio s.epc
  let t := (macEncodeBody len (sendMpf mpfv) mpfv s).2
  let p := phyEncodeBody (mpduLength s len (sendMpf mpfv)) pattern 0#2 t
  let u := if p.2.ctrl.syncEn then (syncEncodeBody pattern p.2).2 else p.2
  (p.1, { u with outInfo := { pattern := pattern, sync := u.ctrl.syncEn }, events := u.events.setOutValid })

/-- SEND (R162). -/
def execSend (len : BitVec 9) (prio : BitVec 1) (mpfv : BitVec 8) (s : State) :
    Host.Outcome State Fault Refusal :=
  runCommandF0 .send (sendCheck len.toNat mpfv) (sendBody len.toNat (prio == 1#1) mpfv) s

end Sys2Proof.Machine
end

