-- ==== Sys2Proof/Machine/Dispatch.lean ====
section
/-! DEFINITION. One arm per command, each one direct call of its meaning. -/

namespace Sys2Proof.Machine

def exec (i : Instr) (s : State) : Host.Outcome State Fault Refusal :=
  match i with
  | .nop => Sys2Proof.Machine.execNop s
  | .epcLoad => Sys2Proof.Machine.execEpcLoad s
  | .epcCommit => Sys2Proof.Machine.execEpcCommit s
  | .aesBlock => Sys2Proof.Machine.execAesBlock s
  | .cmacSubkeys => Sys2Proof.Machine.execCmacSubkeys s
  | .cmac start len ivp => Sys2Proof.Machine.execCmac start len ivp s
  | .burstClear n => Sys2Proof.Machine.execBurstClear n s
  | .writeSubPacketBit r bit => Sys2Proof.Machine.execWriteSubPacketBit r bit s
  | .writeBitIdx r idx bit => Sys2Proof.Machine.execWriteBitIdx r idx bit s
  | .addMidamble r => Sys2Proof.Machine.execAddMidamble r s
  | .diffMsk r => Sys2Proof.Machine.execDiffMsk r s
  | .puncture r => Sys2Proof.Machine.execPuncture r s
  | .ctrCrypt start len => Sys2Proof.Machine.execCtrCrypt start len s
  | .macEncode len mpf mpfv => Sys2Proof.Machine.execMacEncode len mpf mpfv s
  | .numBursts n => Sys2Proof.Machine.execNumBursts n s
  | .phyAssemble mlen mmode => Sys2Proof.Machine.execPhyAssemble mlen mmode s
  | .crc8 bstart blen => Sys2Proof.Machine.execCrc8 bstart blen s
  | .whiten n => Sys2Proof.Machine.execWhiten n s
  | .convInterleave n => Sys2Proof.Machine.execConvInterleave n s
  | .tsmaAssign nb pat => Sys2Proof.Machine.execTsmaAssign nb pat s
  | .lfsrStep => Sys2Proof.Machine.execLfsrStep s
  | .calcF0 => Sys2Proof.Machine.execCalcF0 s
  | .crc2 bstart blen => Sys2Proof.Machine.execCrc2 bstart blen s
  | .syncEncode pat => Sys2Proof.Machine.execSyncEncode pat s
  | .tsmaPattern counter => Sys2Proof.Machine.execTsmaPattern counter s
  | .phyEncode mlen pat mmode => Sys2Proof.Machine.execPhyEncode mlen pat mmode s
  | .send len prio mpfv => Sys2Proof.Machine.execSend len prio mpfv s

end Sys2Proof.Machine
end

