-- ==== Sys2Proof/Machine/Serve.lean ====
section
/-! DEFINITION. Serving one thing the outside world does: a read, a write, a command by a write to CMD, a reset
(20_memory.md R63, R64, R69; 30_encoding.md R96; 70_reset_and_hazards.md R187). -/

namespace Sys2Proof.Machine

/-- A command word issued (R96): decoded and executed, or ILLEGAL_COMMAND (R94). -/
def issueCommand (w : Word) (s : State) : Host.Outcome State Fault Refusal :=
  match decode w with
  | .ok i => exec i s
  | .error _ => illegalCommand w s

/-- `MemWrite(a, n, v)` (R64, R65): a write to CMD is acknowledged and issues its value as a command. -/
def serveWrite (a : HostAddr) (n : AccessSize) (v : Word) (s : State) : Host.Outcome State Fault Refusal :=
  match locate a n with
  | some (.reg .cmd) => issueCommand v (s.answer 0)
  | some l => .next ((s.writeLoc v l).answer 0)
  | none => .next s.busError

/-- One event of the outside world, served to its end (R66, R69, R96). -/
def serve (e : HostEvent) (s : State) : Host.Outcome State Fault Refusal :=
  match e with
  | .read a n => .next (s.serveRead a n)
  | .write a n v => serveWrite a n v s
  | .reset => .next s.platformReset

/-- The machine's step: the oldest event still to come; with none the CORE is idle and nothing changes
(R69, R189, log 11). -/
def stepOnce (s : State) : Host.Outcome State Fault Refusal :=
  match s.hostQueue with
  | [] => .next s
  | e :: rest => serve e { s with hostQueue := rest }

/-- The host's write of a command word. -/
def commandWrite (w : Word) : HostEvent := .write cmdAddr .word w

/-- `s` with the host's write of a command word as its next access, before those it already had (log 1). -/
def State.withCommand (s : State) (w : Word) : State := { s with hostQueue := commandWrite w :: s.hostQueue }

end Sys2Proof.Machine
end

