-- ==== Sys2Proof/Machine/HostProgram.lean ====
section
/-! DEFINITION. Host programs and their pseudo-instructions as host accesses (30_encoding.md R98, R99). -/

namespace Sys2Proof.Machine

/-- A statement of a host program (R98) or a pseudo-instruction (R99). -/
inductive Stmt where
  | st32 (off : HostAddr) (v : Word)
  | st8 (off : HostAddr) (v : Byte)
  | ld32 (off : HostAddr)
  | ld8 (off : HostAddr)
  | command (c : AsmCommand)
  | stbytes (off : HostAddr) (bs : List Byte)
  | mic (start len : Nat)
  | cmacPlain (start len : Nat)
  | clearAll
  | lockKeys
  | expect32 (off : HostAddr) (v : Word)
  | expect8 (off : HostAddr) (v : Byte)
deriving DecidableEq, Repr

/-- A command statement: the write of its word to CMD, none where the assembler refuses it (R98). -/
def commandEvents (c : AsmCommand) : Option (List HostEvent) := c.assemble.map (fun w => [commandWrite w])

/-- The byte writes of `stbytes` at OFF, OFF+1, … (R99). DESIGN CHOICE: past 0xFFFF the address goes on at 0x0000, a case
R99 leaves open (log 23). -/
def stbytesEvents (off : HostAddr) : List Byte → List HostEvent
  | [] => []
  | b :: bs => .write off .byte (b.setWidth 32) :: stbytesEvents (off + 1) bs

/-- The host address of CTRL (R28). -/
def ctrlAddr : HostAddr := 0x010#16

/-- The accesses of a statement (R98, R99). `ctrl` is what the `ld32 0x010` of LOCK_KEYS answers: its store depends on
it. An `expect` is the read; the assertion about its answer changes no state. -/
def Stmt.events (ctrl : Word) : Stmt → Option (List HostEvent)
  | .st32 off v => some [.write off .word v]
  | .st8 off v => some [.write off .byte (v.setWidth 32)]
  | .ld32 off => some [.read off .word]
  | .ld8 off => some [.read off .byte]
  | .command c => commandEvents c
  | .stbytes off bs => some (stbytesEvents off bs)
  | .mic start len => commandEvents { mnemonic := .cmac, operands := [start, len, 1] }
  | .cmacPlain start len => commandEvents { mnemonic := .cmac, operands := [start, len, 0] }
  | .clearAll => commandEvents { mnemonic := .burstClear, operands := [260] }
  | .lockKeys => some [.read ctrlAddr .word, .write ctrlAddr .word (ctrl ||| 0x3#32)]
  | .expect32 off _ => some [.read off .word]
  | .expect8 off _ => some [.read off .byte]

/-- What an `expect` asks of the bus response to its read (R99); nothing for other statements. DESIGN CHOICE: it asks for
no error beside the data, so an `expect` of 0 does not hold of a read that ends in a bus error, whose data is 0 (R65); R99
leaves the case open (log 22). -/
def Stmt.expects : Stmt → Option BusResponse
  | .expect32 _ v => some { error := false, data := v }
  | .expect8 _ v => some { error := false, data := v.setWidth 32 }
  | _ => none

end Sys2Proof.Machine
end

