-- ==== Sys2Proof/Machine/Output.lean ====
section
/-! DEFINITION. The output contract: the telegram the Burst Sink reads (46_pipeline.md R163; 20_memory.md R73). The
sink itself is outside the CORE (00_scope.md R4, log 9). -/

namespace Sys2Proof.Machine

/-- One burst as the sink receives it (R163). -/
structure SinkBurst where
  /-- `bits[0..5]`: the five bytes BITS[0..4] -/
  bits : List Byte
  /-- `bit_length`: 40, or 0 if punctured -/
  bitLength : Nat
  carrierOffset : BitVec 16
  tRb : BitVec 16
deriving DecidableEq, Repr

/-- The sink's tuple of a record (R163). -/
def BurstRec.toSink (b : BurstRec) : SinkBurst where
  bits := (List.range 5).map (burstByte b.bits)
  bitLength := b.bitLength
  carrierOffset := b.carrier
  tRb := b.trb

/-- The indices of the telegram's records in the order of emission: 259 first if OUT_INFO.SYNC, then the data bursts
0..NUM_BURSTS-1 (R163). -/
def State.telegramRecords (s : State) : List Nat :=
  (if s.outInfo.sync then [syncRecord] else []) ++ List.range s.numBursts.toNat

/-- The telegram: the sink's tuples in order of emission (R163). -/
def State.telegram (s : State) : List SinkBurst := s.telegramRecords.map (fun r => (s.burst r).toSink)

/-- `base_freq_register` (R163). -/
def State.baseFreq (s : State) : BitVec 32 := s.f0

end Sys2Proof.Machine
end

