-- ==== Sys2Proof/Safety.lean ====
section
/-! DEFINITION. The terms the statements use, written from the spec's tables and formulas and not from the meanings:
the opcode table, the error table, legal accesses, legal states, runs of commands. -/

namespace Sys2Proof.Machine

/-! ## The opcode table -/

/-- The match word of each row of opcode_table.json (30_encoding.md R93). -/
def tableMatch : Mnemonic → Word
  | .nop => 0x00000000#32
  | .epcLoad => 0x01000000#32
  | .epcCommit => 0x02000000#32
  | .aesBlock => 0x10000000#32
  | .cmacSubkeys => 0x11000000#32
  | .cmac => 0x12000000#32
  | .burstClear => 0x20000000#32
  | .writeSubPacketBit => 0x21000000#32
  | .writeBitIdx => 0x22000000#32
  | .addMidamble => 0x23000000#32
  | .diffMsk => 0x24000000#32
  | .puncture => 0x25000000#32
  | .ctrCrypt => 0x30000000#32
  | .macEncode => 0x31000000#32
  | .numBursts => 0x40000000#32
  | .phyAssemble => 0x41000000#32
  | .crc8 => 0x42000000#32
  | .whiten => 0x43000000#32
  | .convInterleave => 0x44000000#32
  | .tsmaAssign => 0x50000000#32
  | .lfsrStep => 0x51000000#32
  | .calcF0 => 0x52000000#32
  | .crc2 => 0x53000000#32
  | .syncEncode => 0x54000000#32
  | .tsmaPattern => 0x55000000#32
  | .phyEncode => 0x60000000#32
  | .send => 0x61000000#32

/-- The mask of each row of opcode_table.json (R93). -/
def tableMask : Mnemonic → Word
  | .nop => 0xFFFFFFFF#32
  | .epcLoad => 0xFFFFFFFF#32
  | .epcCommit => 0xFFFFFFFF#32
  | .aesBlock => 0xFFFFFFFF#32
  | .cmacSubkeys => 0xFFFFFFFF#32
  | .cmac => 0xFFFC0000#32
  | .burstClear => 0xFFFFFE00#32
  | .writeSubPacketBit => 0xFFFFFC00#32
  | .writeBitIdx => 0xFFFF0000#32
  | .addMidamble => 0xFFFFFE00#32
  | .diffMsk => 0xFFFFFE00#32
  | .puncture => 0xFFFFFE00#32
  | .ctrCrypt => 0xFFFE0000#32
  | .macEncode => 0xFFFC0000#32
  | .numBursts => 0xFFFFFE00#32
  | .phyAssemble => 0xFFFFCE00#32
  | .crc8 => 0xFF000000#32
  | .whiten => 0xFFFFFE00#32
  | .convInterleave => 0xFFFFFE00#32
  | .tsmaAssign => 0xFFFFF000#32
  | .lfsrStep => 0xFFFFFFFF#32
  | .calcF0 => 0xFFFFFFFF#32
  | .crc2 => 0xFF000000#32
  | .syncEncode => 0xFFFFFFF8#32
  | .tsmaPattern => 0xFF000000#32
  | .phyEncode => 0xFFFFC000#32
  | .send => 0xFFFC0000#32

/-- The operand fields of each command in the assembler's operand order (R98), each as the number of its lowest bit in
the word and its width (30_encoding.md R79 to R92). -/
def operandFields : Mnemonic → List (Nat × Nat)
  | .nop => []
  | .epcLoad => []
  | .epcCommit => []
  | .aesBlock => []
  | .cmacSubkeys => []
  | .cmac => [(0, 8), (8, 9), (17, 1)]
  | .burstClear => [(0, 9)]
  | .writeSubPacketBit => [(0, 9), (9, 1)]
  | .writeBitIdx => [(0, 9), (9, 6), (15, 1)]
  | .addMidamble => [(0, 9)]
  | .diffMsk => [(0, 9)]
  | .puncture => [(0, 9)]
  | .ctrCrypt => [(0, 8), (8, 9)]
  | .macEncode => [(0, 9), (9, 1), (10, 8)]
  | .numBursts => [(0, 9)]
  | .phyAssemble => [(0, 9), (12, 2)]
  | .crc8 => [(0, 12), (12, 12)]
  | .whiten => [(0, 9)]
  | .convInterleave => [(0, 9)]
  | .tsmaAssign => [(0, 9), (9, 3)]
  | .lfsrStep => []
  | .calcF0 => []
  | .crc2 => [(0, 12), (12, 12)]
  | .syncEncode => [(0, 3)]
  | .tsmaPattern => [(0, 24)]
  | .phyEncode => [(0, 9), (9, 3), (12, 2)]
  | .send => [(0, 9), (9, 1), (10, 8)]

/-- The operands of an instruction as numbers, in the order of R98. -/
def operandValues : Instr → List Nat
  | .nop => []
  | .epcLoad => []
  | .epcCommit => []
  | .aesBlock => []
  | .cmacSubkeys => []
  | .cmac start len ivp => [start.toNat, len.toNat, ivp.toNat]
  | .burstClear n => [n.toNat]
  | .writeSubPacketBit r bit => [r.toNat, bit.toNat]
  | .writeBitIdx r idx bit => [r.toNat, idx.toNat, bit.toNat]
  | .addMidamble r => [r.toNat]
  | .diffMsk r => [r.toNat]
  | .puncture r => [r.toNat]
  | .ctrCrypt start len => [start.toNat, len.toNat]
  | .macEncode len mpf mpfv => [len.toNat, mpf.toNat, mpfv.toNat]
  | .numBursts n => [n.toNat]
  | .phyAssemble mlen mmode => [mlen.toNat, mmode.toNat]
  | .crc8 bstart blen => [bstart.toNat, blen.toNat]
  | .whiten n => [n.toNat]
  | .convInterleave n => [n.toNat]
  | .tsmaAssign nb pat => [nb.toNat, pat.toNat]
  | .lfsrStep => []
  | .calcF0 => []
  | .crc2 bstart blen => [bstart.toNat, blen.toNat]
  | .syncEncode pat => [pat.toNat]
  | .tsmaPattern counter => [counter.toNat]
  | .phyEncode mlen pat mmode => [mlen.toNat, pat.toNat, mmode.toNat]
  | .send len prio mpfv => [len.toNat, prio.toNat, mpfv.toNat]

/-- Every operand is given, and each is below two to the width of its field (R98). -/
abbrev OperandsFit (c : AsmCommand) : Prop :=
  c.operands.length = (operandFields c.mnemonic).length ∧
    ∀ p ∈ (operandFields c.mnemonic).zip c.operands, p.2 < 2 ^ p.1.2

/-! ## Command errors -/

/-- "key/EUI not set" does not hold: both locks are 1 (60_exceptions.md R170). -/
abbrev Provisioned (s : State) : Prop := s.ctrl.keyLock = true ∧ s.ctrl.euiLock = true

/-- One channel inside RegionCheck's bounds (45_tsma_sync.md R146). -/
abbrev ChannelOk (s : State) (fc : BitVec 32) : Prop :=
  (1 : Int) ≤ (fc.toNat : Int) - 12 * s.bC.toNat - (s.nCo.toNat / 2 : Nat) * s.bC0.toNat ∧
    (fc.toNat : Int) - 12 * s.bC.toNat + (s.nCo.toNat / 2 : Nat) * s.bC0.toNat ≤ 0xFFFFFFFF

/-- RegionCheck() passes (R146). -/
abbrev RegionOk (s : State) : Prop :=
  (s.upg = 1#2 ∨ s.upg = 2#2 ∨ s.upg = 3#2) ∧ (s.nCo = 3#4 ∨ s.nCo = 11#4) ∧
    24 * s.bC.toNat ≤ 0xFFFE ∧ ChannelOk s s.chanA ∧ ChannelOk s s.chanB

/-- `MpduLength` of R132 as a number of bytes. -/
def mpduBytesNeeded (s : State) (len : Nat) (mpf : Bool) : Nat :=
  10 + len + (if mpf = true then 1 else 0) + (if s.ctrl.addrLong = true then 6 else 0)

/-- The table of R169: when a command raises OPERAND_RANGE. -/
def rangeError (s : State) : Instr → Bool
  | .nop => false
  | .epcLoad => false
  | .epcCommit => false
  | .aesBlock => false
  | .cmacSubkeys => false
  | .cmac start len _ => decide (256 < start.toNat + len.toNat)
  | .burstClear n => decide (260 < n.toNat)
  | .writeSubPacketBit r _ => decide (259 < r.toNat) || decide (24 ≤ (s.burst r.toNat).cursor.toNat)
  | .writeBitIdx r idx _ => decide (259 < r.toNat) || decide (39 < idx.toNat)
  | .addMidamble r => decide (259 < r.toNat)
  | .diffMsk r => decide (259 < r.toNat)
  | .puncture r => decide (259 < r.toNat)
  | .ctrCrypt start len => decide (256 < start.toNat + len.toNat)
  | .macEncode _ mpf mpfv => decide (mpf = 0#1 ∧ mpfv ≠ 0#8)
  | .numBursts _ => false
  | .phyAssemble _ _ => false
  | .crc8 bstart blen => decide (2072 < bstart.toNat + blen.toNat)
  | .whiten n => decide (n = 0#9) || decide (259 < n.toNat)
  | .convInterleave n =>
    decide (n.toNat < 24) || decide (259 < n.toNat) || decide (∃ r < n.toNat, (s.burst r).cursor ≠ 0#5)
  | .tsmaAssign nb _ => decide (nb.toNat < 24) || decide (259 < nb.toNat)
  | .lfsrStep => false
  | .calcF0 => false
  | .crc2 bstart blen => decide (2072 < bstart.toNat + blen.toNat)
  | .syncEncode _ => false
  | .tsmaPattern _ => false
  | .phyEncode _ _ _ => false
  | .send _ _ _ => false

/-- The table of R170: when a command raises CONFIG_ERROR. -/
def configError (s : State) : Instr → Bool
  | .nop => false
  | .epcLoad => false
  | .epcCommit => false
  | .aesBlock => false
  | .cmacSubkeys => false
  | .cmac _ _ ivp => decide (ivp = 1#1 ∧ ¬Provisioned s)
  | .burstClear _ => false
  | .writeSubPacketBit _ _ => false
  | .writeBitIdx _ _ _ => false
  | .addMidamble _ => false
  | .diffMsk _ => false
  | .puncture _ => false
  | .ctrCrypt _ _ => decide (¬Provisioned s)
  | .macEncode _ _ _ => decide (¬Provisioned s)
  | .numBursts _ => false
  | .phyAssemble _ _ => false
  | .crc8 _ _ => false
  | .whiten _ => false
  | .convInterleave _ => false
  | .tsmaAssign _ _ => decide (¬RegionOk s)
  | .lfsrStep => false
  | .calcF0 => decide (¬RegionOk s)
  | .crc2 _ _ => false
  | .syncEncode _ => decide (¬RegionOk s) || decide (s.ctrl.euiLock = false)
  | .tsmaPattern _ => false
  | .phyEncode _ _ _ => decide (¬RegionOk s)
  | .send _ _ _ => decide (¬Provisioned s) || decide (¬RegionOk s)

/-- The table of R171: when a command raises PAYLOAD_TOO_LONG. -/
def lengthError (s : State) : Instr → Bool
  | .nop => false
  | .epcLoad => false
  | .epcCommit => false
  | .aesBlock => false
  | .cmacSubkeys => false
  | .cmac _ _ _ => false
  | .burstClear _ => false
  | .writeSubPacketBit _ _ => false
  | .writeBitIdx _ _ _ => false
  | .addMidamble _ => false
  | .diffMsk _ => false
  | .puncture _ => false
  | .ctrCrypt _ _ => false
  | .macEncode len mpf _ => decide (255 < mpduBytesNeeded s len.toNat (mpf == 1#1))
  | .numBursts n => decide (255 < n.toNat)
  | .phyAssemble mlen _ => decide (255 < mlen.toNat)
  | .crc8 _ _ => false
  | .whiten _ => false
  | .convInterleave _ => false
  | .tsmaAssign _ _ => false
  | .lfsrStep => false
  | .calcF0 => false
  | .crc2 _ _ => false
  | .syncEncode _ => false
  | .tsmaPattern _ => false
  | .phyEncode mlen _ _ => decide (255 < mlen.toNat)
  | .send len _ mpfv => decide (255 < mpduBytesNeeded s len.toNat (mpfv != 0#8))

/-- The error code a command reports, if any: the first in the order of R173. -/
def commandError (i : Instr) (s : State) : Option Byte :=
  if rangeError s i then some 6#8 else if configError s i then some 1#8
  else if lengthError s i then some 2#8 else none

/-- The commands whose failure also writes F0 = 0 (R161, R175). -/
def clearsF0 (i : Instr) : Bool := i.mnemonic == .phyEncode || i.mnemonic == .send

/-- The state R175 gives for a command word with opcode field `op` that ends in the error `c`. -/
def State.failed (s : State) (op c : Byte) : State :=
  { s with status := { lastErr := c, lastOp := op }, result := 0, events := { s.events with err := true } }

/-! ## Accesses -/

/-- The two cases of a legal access (20_memory.md R60, R62). -/
def LegalAccess (a : Nat) : AccessSize → Prop
  | .word =>
    (a < 0x60 ∧ a % 4 = 0) ∨
      ∃ r < 260, a = 0x1000 + 0x20 * r + 0x08 ∨ a = 0x1000 + 0x20 * r + 0x0C ∨
        a = 0x1000 + 0x20 * r + 0x10 ∨ a = 0x1000 + 0x20 * r + 0x14
  | .half => False
  | .byte =>
    (0x0100 ≤ a ∧ a ≤ 0x010F) ∨ (0x0110 ≤ a ∧ a ≤ 0x0117) ∨ (0x0120 ≤ a ∧ a ≤ 0x012F) ∨
      (0x0130 ≤ a ∧ a ≤ 0x013F) ∨ (0x0140 ≤ a ∧ a ≤ 0x014F) ∨ (0x0150 ≤ a ∧ a ≤ 0x015F) ∨
      (0x0160 ≤ a ∧ a ≤ 0x016F) ∨ (0x0200 ≤ a ∧ a ≤ 0x02FF) ∨ (0x0300 ≤ a ∧ a ≤ 0x03FF) ∨
      (0x0400 ≤ a ∧ a ≤ 0x0502) ∨
      ∃ r < 260, 0x1000 + 0x20 * r ≤ a ∧ a ≤ 0x1000 + 0x20 * r + 0x04

/-- The byte addresses that hold memory in State: the regions of R60 up to PHYBUF's end. -/
def MemoryAddress (a : Nat) : Prop :=
  (0x0100 ≤ a ∧ a ≤ 0x0117) ∨ (0x0120 ≤ a ∧ a ≤ 0x016F) ∨ (0x0200 ≤ a ∧ a ≤ 0x03FF) ∨ (0x0400 ≤ a ∧ a ≤ 0x0502)

/-- A state whose next host event is `e`, and the state `step` serves it in. -/
def State.before (s : State) (e : HostEvent) : State := { s with hostQueue := e :: s.hostQueue }

/-- `s` once an access has been answered without error (20_memory.md R63, R64). -/
def State.answered (s : State) (data : Word) : State := { s with busResponse := some { error := false, data := data } }

/-- What each word register reads as, in the order of the offsets 0x000, 0x004, …, 0x05C, as numbers
(10_state.md R24 to R47). -/
def registerValues (s : State) : List Nat :=
  [0, 256 * s.status.lastOp.toNat + s.status.lastErr.toNat, s.result.toNat,
    s.events.persistReq.toNat + 2 * s.events.outValid.toNat + 4 * s.events.err.toNat,
    s.ctrl.keyLock.toNat + 2 * s.ctrl.euiLock.toNat + 4 * s.ctrl.addrLong.toNat + 8 * s.ctrl.syncEn.toNat
      + 16 * s.ctrl.shortOvrEn.toNat,
    s.shortAddrOvr.toNat, s.chanA.toNat, s.chanB.toNat, s.bC.toNat, s.bC0.toNat, s.upg.toNat, s.nCo.toNat,
    s.epc.toNat, s.epcLoadval.toNat, s.epcStore.toNat, s.f0.toNat, s.numBursts.toNat, s.mpduLen.toNat,
    s.crcHdr.toNat, s.crcPay.toNat, s.tsmaLfsr.toNat, s.whitenLfsr.toNat, s.convSr.toNat,
    s.outInfo.pattern.toNat + 8 * s.outInfo.sync.toNat]

/-- The word registers a host write never changes: the RO ones (R60). -/
def readOnlyRegisters : List HostAddr :=
  [0x004#16, 0x008#16, 0x030#16, 0x038#16, 0x03C#16, 0x040#16, 0x044#16, 0x054#16, 0x058#16, 0x05C#16]

/-! ## Legal states and runs -/

/-- A state the registers' rules allow: the memory is canonical and lists only addresses that exist, every cursor is
in 0..24 (10_state.md R56), LAST_ERR is a code the CORE raises (60_exceptions.md R166, R167), a failed command has
left RESULT 0 (R26), NUM_BURSTS is 0 or in 24..259 (R40), MPDU_LEN is 0 or in 10..255 (R41). -/
structure State.Legal (s : State) : Prop where
  memWf : s.mem.wf
  memMapped : ∀ c ∈ s.mem, MemoryAddress c.1
  cursors : ∀ r < 260, (s.burst r).cursor.toNat ≤ 24
  codes : s.status.lastErr = 0#8 ∨ s.status.lastErr = 1#8 ∨ s.status.lastErr = 2#8 ∨
    s.status.lastErr = 5#8 ∨ s.status.lastErr = 6#8
  failedResult : s.status.lastErr ≠ 0#8 → s.result = 0
  burstCount : s.numBursts = 0 ∨ (24 ≤ s.numBursts.toNat ∧ s.numBursts.toNat ≤ 259)
  mpduLength : s.mpduLen = 0 ∨ (10 ≤ s.mpduLen.toNat ∧ s.mpduLen.toNat ≤ 255)

/-- Commands run one after another, as the host's writes to CMD run them. -/
def runCommands : List Instr → State → Host.Outcome State Fault Refusal
  | [], s => .next s
  | i :: rest, s =>
    match exec i s with
    | .next t => runCommands rest t
    | .fault r => .fault r
    | .refused r => .refused r

/-- The primitive commands of R194, in its order, for a telegram of `nb` data bursts. -/
def telegramPrimitives (mlen : BitVec 9) (pat : BitVec 3) (mmode : BitVec 2) (nb : Nat) : List Instr :=
  [.phyAssemble mlen mmode, .whiten (BitVec.ofNat 9 nb), .burstClear (BitVec.ofNat 9 nb),
    .convInterleave (BitVec.ofNat 9 nb)]
  ++ (List.range nb).flatMap (fun r => [.addMidamble (BitVec.ofNat 9 r), .diffMsk (BitVec.ofNat 9 r)])
  ++ [.tsmaAssign (BitVec.ofNat 9 nb) pat, .calcF0]

/-- The EPC is within the window that the last store of this power cycle covers (40_control.md R105): at or past the
value in EPC_STORE, and in the same block of 256. A state right after EPC_LOAD of a stored value
is outside it: EPC_STORE does not hold that value yet (log 21). -/
def WithinPersistWindow (s : State) : Prop :=
  s.epcStore.toNat ≤ s.epc.toNat ∧ s.epc.toNat / 256 * 256 ≤ s.epcStore.toNat

/-! ## Power cycles (40_control.md R105) -/

/-- A power cycle so far: the CORE's state, what the host's store holds, the EPC values that successful MAC_ENCODE and
SEND commands have used, oldest first, and the highest EPC there has been. -/
structure PowerCycle where
  state : State
  store : BitVec 24
  used : List Nat
  highest : Nat

/-- The CORE after it has served one host event. -/
def State.after (s : State) (e : HostEvent) : State :=
  match serve e s with
  | .next t => t
  | .fault _ => s
  | .refused _ => s

/-- The event is the issue of a MAC_ENCODE or SEND, and the state `t` after it says that it succeeded. -/
def usesCounter (e : HostEvent) (t : State) : Bool :=
  match e with
  | .write a .word w =>
    a == cmdAddr && t.status.lastErr == 0#8 &&
      (match decode w with
        | .ok i => i.mnemonic == .macEncode || i.mnemonic == .send
        | .error _ => false)
  | _ => false

/-- One more host event. The host stores EPC_STORE whenever PERSIST_REQ is 1 (R102, R105). -/
def PowerCycle.serve (c : PowerCycle) (e : HostEvent) : PowerCycle :=
  let t := c.state.after e
  { state := t
    store := if t.events.persistReq then t.epcStore else c.store
    used := if usesCounter e t then c.used ++ [c.state.epc.toNat] else c.used
    highest := max c.highest t.epc.toNat }

/-- A boot: after reset the host writes the stored value to EPC_LOADVAL and issues EPC_LOAD
(70_reset_and_hazards.md R190). -/
def PowerCycle.boot (store : BitVec 24) : PowerCycle :=
  let s := (State.reset.after (.write 0x034#16 .word (store.setWidth 32))).after (commandWrite (encode .epcLoad))
  { state := s, store := store, used := [], highest := s.epc.toNat }

/-- Power cycles one after another, each booted from what the one before left in the host's store. -/
def powerCycles (store : BitVec 24) : List (List HostEvent) → List PowerCycle
  | [] => []
  | events :: rest =>
    let c := events.foldl PowerCycle.serve (PowerCycle.boot store)
    c :: powerCycles c.store rest

/-- Two states that differ at most in the bytes of KEY. -/
def DifferOnlyInKey (s u : State) : Prop :=
  u = { s with mem := u.mem } ∧ ∀ a, ¬(0x0100 ≤ a ∧ a ≤ 0x010F) → u.mem.read a = s.mem.read a

/-! ## Reference formulas -/

/-- The XOR of stream bits 0..i of a burst. -/
def prefixXor (b : BurstBits) (i : Nat) : Bool := (List.range (i + 1)).foldl (fun p j => p ^^ burstBit b j) false

/-- The period-15 XOR bytes of the whitener from 0x1FF (44_phy_coding.md R142 (a)). -/
def whitenPeriod : List Byte :=
  [0x83#8, 0xff#8, 0x07#8, 0xfe#8, 0x0f#8, 0xfc#8, 0x1f#8, 0xf8#8, 0x3f#8, 0xf0#8, 0x7f#8, 0xe0#8, 0xff#8, 0xc1#8,
    0xff#8]

/-- Byte `j` of what MAC_ENCODE encrypts: the MPF byte if present, then the payload (43_mac.md R131). -/
def plainByte (s : State) (mpf : Bool) (mpfv : Byte) (j : Nat) : Byte :=
  if mpf = true then (if j = 0 then mpfv else s.byte .payload (j - 1)) else s.byte .payload j

/-- Byte `j` of the CTR keystream (R133). -/
def keystreamByte (s : State) (j : Nat) : Byte :=
  blockByte (aes (s.block .key) (blockOfBytes (ctrIv s (j / 16)))) (j % 16)

/-- The chaining value of CMAC after the first `n` blocks of a message, from zero (41_aes_cmac.md R115). -/
def cmacChain (k : Block) (msg : List Byte) : Nat → Block
  | 0 => 0#128
  | n + 1 => aes k (cmacChain k msg n ^^^ blockOfBytes ((msg.drop (16 * n)).take 16))

/-- Which of its burst's data bits coded bit `o` is, counted from 0 (44_phy_coding.md R143): the closed form of the
cursor at its write. -/
def arrival (o nb : Nat) : Nat :=
  if o < 288 then o / 24
  else if (o - 288) % (nb - 12) < 12 then 12 + (o - 288) / (nb - 12) / 2
  else (o - 288) / (nb - 12)

/-- Bit `d` of the encoder's window at input bit `i`: the input bit `d` steps back, and before the first one the
preloaded stream bits P-9 down to P-14 (R144). -/
def windowBit (buf : Nat → Byte) (p i d : Nat) : Bool :=
  if d ≤ i then bitRead buf ((i - d + p - 16) % p) else bitRead buf (p - 9 - (d - i - 1))

/-- Coded bit `o`: the parity of the window's bits under its polynomial (R144). -/
def codedBit (buf : Nat → Byte) (nb o : Nat) : Bool :=
  (List.range 7).foldl
    (fun p d => p ^^ ((convPoly (o % 3)).getLsbD d && windowBit buf (8 * nb) (o / 3) d)) false

/-- The LFSR state that extension burst `i` uses: one step per extension burst from the seed (45_tsma_sync.md R150). -/
def extensionState (seed : BitVec 16) (i : Nat) : BitVec 16 := (lfsrNext)^[i - 23] seed

/-- Multiplication in GF(2^8) by the shift-and-add method on xtime (41_aes_cmac.md R107). -/
def gfMul (a b : Byte) : Byte :=
  ((List.range 8).foldl (fun (p : Byte × Byte) i => (if b.getLsbD i then p.1 ^^^ p.2 else p.1, xtime p.2)) (0#8, a)).1

/-- x^254 in GF(2^8), the inverse of a nonzero x and 0 for 0 (R108). -/
def gfInv (x : Byte) : Byte :=
  let x2 := gfMul x x
  let x4 := gfMul x2 x2
  let x8 := gfMul x4 x4
  let x16 := gfMul x8 x8
  let x32 := gfMul x16 x16
  let x64 := gfMul x32 x32
  let x128 := gfMul x64 x64
  gfMul (gfMul (gfMul (gfMul (gfMul (gfMul x128 x64) x32) x16) x8) x4) x2

/-- The affine map of R108. -/
def sboxAffine (b : Byte) : Byte :=
  b ^^^ b.rotateLeft 1 ^^^ b.rotateLeft 2 ^^^ b.rotateLeft 3 ^^^ b.rotateLeft 4

end Sys2Proof.Machine
end

