-- ==== Sys2Proof/Certificates/Slice0/Obligations.lean ====
section
/-! DEFINITION. The statements about the model. Each is written from the rules its docstring cites. "t = { s with … }"
says the frame: every field not named is unchanged. -/

open Sys2Proof Sys2Proof.Machine

/-! ## Encoding -/

/-- R76, R93, R94: decoding an instruction's word gives the instruction, for every instruction and every operand, and
a word that decodes is the one encoding of its instruction. -/
def Obligations.DecodeAndEncodeAgree : Prop :=
  (∀ i : Instr, decode (encode i) = .ok i) ∧ ∀ (w : Word) (i : Instr), decode w = .ok i → encode i = w

/-- R93: a word selects a row exactly when its bits under the row's mask are the row's match. -/
def Obligations.TableRowSelectsCommand : Prop :=
  ∀ (w : Word) (m : Mnemonic), (∃ i, decode w = .ok i ∧ i.mnemonic = m) ↔ w &&& tableMask m = tableMatch m

/-- 95_test_vectors.md L2.1, and the examples of R104 and R120: words written out there decode to their commands; the illegal
words of L2.1 do not decode. -/
def Obligations.SampleWordsDecode : Prop :=
  decode 0x21000201#32 = .ok (.writeSubPacketBit 1 1) ∧ decode 0x2200CE00#32 = .ok (.writeBitIdx 0 39 1) ∧
  decode 0x12020900#32 = .ok (.cmac 0 9 1) ∧ decode 0x30000306#32 = .ok (.ctrCrypt 6 3) ∧
  decode 0x4100200D#32 = .ok (.phyAssemble 13 2) ∧ decode 0x5300E014#32 = .ok (.crc2 20 14) ∧
  decode 0x31016A03#32 = .ok (.macEncode 3 1 0x5A) ∧ decode 0x60000042#32 = .ok (.phyEncode 66 0 0) ∧
  decode 0x50000019#32 = .ok (.tsmaAssign 25 0) ∧ decode 0x54000003#32 = .ok (.syncEncode 3) ∧
  decode 0x5500000E#32 = .ok (.tsmaPattern 14) ∧ decode 0x61000203#32 = .ok (.send 3 1 0) ∧
  decode 0x20000018#32 = .ok (.burstClear 24) ∧ decode 0x02000000#32 = .ok .epcCommit ∧
  decode 0x03000000#32 = .error .undefinedOpcode ∧ decode 0x41000200#32 = .error .reservedBit ∧
  decode 0x00000001#32 = .error .reservedBit

/-- R98: the assembler gives a word exactly for the commands whose operands are all there and fit the fields of R79 to
R92. The word matches its row of the opcode table, holds each operand as a number in that operand's bits, and decodes to
the command with those operands. -/
def Obligations.AssemblerAcceptsExactlyFittingOperands : Prop :=
  ∀ c : AsmCommand,
    (OperandsFit c → ∃ w i, c.assemble = some w ∧
      w &&& tableMask c.mnemonic = tableMatch c.mnemonic ∧
      (∀ p ∈ (operandFields c.mnemonic).zip c.operands, w.toNat / 2 ^ p.1.1 % 2 ^ p.1.2 = p.2) ∧
      decode w = .ok i ∧ i.mnemonic = c.mnemonic ∧ operandValues i = c.operands) ∧
    (¬OperandsFit c → c.assemble = none)

/-! ## The step -/

/-- R96: the host's write of a command word to CMD, when the word decodes, is acknowledged and runs its instruction
(the input list is the model's: log 1; so is the data 0 of a write's response: log 2). -/
def Obligations.StepRunsDecodedCommand : Prop :=
  ∀ (s : State) (w : Word) (i : Instr), decode w = .ok i →
    step (s.before (.write 0x000#16 .word w)) = exec i (s.answered 0)

/-- R94, R168: a command word that no row of the opcode table selects writes STATUS, RESULT and EVENTS.ERR, and
nothing else (log 1, log 2). -/
def Obligations.StepReportsIllegalWord : Prop :=
  ∀ (s : State) (w : Word), (∀ m, w &&& tableMask m ≠ tableMatch m) →
    step (s.before (.write 0x000#16 .word w)) =
      .next ((s.answered 0).failed (w.extractLsb' 24 8) 5#8)

/-- R165: no event stops the CORE, every step answers a next state (a bus error too: log 3). R187, R189: with no host
event the CORE is idle (the model's choice of an idle step: log 11); the platform's reset gives the reset state, whatever
the state was (the events still to come are the environment's: log 10). -/
def Obligations.StepAlwaysContinuesIdlesAndResets : Prop :=
  (∀ s : State, ∃ t, step s = .next t) ∧
  (∀ s : State, s.hostQueue = [] → step s = .next s) ∧
  ∀ s : State, step (s.before .reset) = .next { State.reset with hostQueue := s.hostQueue }

/-- R188: the reset values the spec gives. -/
def Obligations.ResetRegistersAndRegions : Prop :=
  registerValues State.reset =
    [0, 0, 0, 0, 0, 0, 0, 0, 0, 0, 0, 0, 0, 0xFFFFFF, 0, 0, 0, 0, 0, 0, 0, 0, 0, 0] ∧
  (∀ i < 16, State.reset.byte .key i = 0) ∧ (∀ i < 8, State.reset.byte .eui64 i = 0) ∧
  (∀ i < 16, State.reset.byte .aesIn i = 0 ∧ State.reset.byte .aesOut i = 0 ∧ State.reset.byte .k1 i = 0 ∧
    State.reset.byte .k2 i = 0 ∧ State.reset.byte .tag i = 0) ∧
  ∀ r < 260, (State.reset.burst r).cursor.toNat ≤ 24

/-! ## The host bus -/

/-- R65: an access that is not legal changes no state of the CORE, answers 0, and is signalled on the response only
(the response's place in State and a write's data are the model's: log 2; a next state: log 3). -/
def Obligations.IllegalAccessIsBusError : Prop :=
  ∀ (s : State) (a : HostAddr) (n : AccessSize) (v : Word), ¬LegalAccess a.toNat n →
    step (s.before (.read a n)) = .next { s with busResponse := some { error := true, data := 0 } } ∧
    step (s.before (.write a n v)) = .next { s with busResponse := some { error := true, data := 0 } }

/-- R63: what each legal read answers; it changes nothing else (log 1, log 2). -/
def Obligations.ReadAnswersStoredValue : Prop :=
  ∀ s : State,
    (∀ (n : Nat) (h : n < (registerValues s).length), ∃ d : Word, d.toNat = (registerValues s)[n] ∧
      step (s.before (.read (BitVec.ofNat 16 (4 * n)) .word)) = .next (s.answered d)) ∧
    (∀ (g : ByteRegion) (i : Nat), i < g.size →
      step (s.before (.read (BitVec.ofNat 16 (g.base + i)) .byte)) =
        .next (s.answered (if g = .key then 0 else (s.byte g i).setWidth 32))) ∧
    (∀ r < 260,
      (∀ k < 5, step (s.before (.read (BitVec.ofNat 16 (0x1000 + 0x20 * r + k)) .byte)) =
        .next (s.answered ((burstByte (s.burst r).bits k).setWidth 32))) ∧
      step (s.before (.read (BitVec.ofNat 16 (0x1000 + 0x20 * r + 0x08)) .word)) =
        .next (s.answered ((s.burst r).carrier.setWidth 32)) ∧
      step (s.before (.read (BitVec.ofNat 16 (0x1000 + 0x20 * r + 0x0C)) .word)) =
        .next (s.answered ((s.burst r).trb.setWidth 32)) ∧
      step (s.before (.read (BitVec.ofNat 16 (0x1000 + 0x20 * r + 0x10)) .word)) =
        .next (s.answered ((s.burst r).cursor.setWidth 32)) ∧
      step (s.before (.read (BitVec.ofNat 16 (0x1000 + 0x20 * r + 0x14)) .word)) =
        .next (s.answered (if (s.burst r).carrier = 0xFFFF#16 then 0 else 40)))

/-- R27, R28, R64: a host write to each word register but CMD: implemented bits stored, RO ignored, EVENTS cleared
where a 1 is written, the CTRL locks set-only (log 1, log 2). -/
def Obligations.RegisterWriteRules : Prop :=
  ∀ (s : State) (v : Word),
    (∀ a ∈ readOnlyRegisters, step (s.before (.write a .word v)) = .next (s.answered 0)) ∧
    step (s.before (.write 0x00C#16 .word v)) = .next { s.answered 0 with events :=
      { persistReq := s.events.persistReq && !v.getLsbD 0, outValid := s.events.outValid && !v.getLsbD 1,
        err := s.events.err && !v.getLsbD 2 } } ∧
    step (s.before (.write 0x010#16 .word v)) = .next { s.answered 0 with ctrl :=
      { keyLock := s.ctrl.keyLock || v.getLsbD 0, euiLock := s.ctrl.euiLock || v.getLsbD 1,
        addrLong := v.getLsbD 2, syncEn := v.getLsbD 3, shortOvrEn := v.getLsbD 4 } } ∧
    step (s.before (.write 0x014#16 .word v)) = .next { s.answered 0 with shortAddrOvr := v.extractLsb' 0 16 } ∧
    step (s.before (.write 0x018#16 .word v)) = .next { s.answered 0 with chanA := v } ∧
    step (s.before (.write 0x01C#16 .word v)) = .next { s.answered 0 with chanB := v } ∧
    step (s.before (.write 0x020#16 .word v)) = .next { s.answered 0 with bC := v.extractLsb' 0 16 } ∧
    step (s.before (.write 0x024#16 .word v)) = .next { s.answered 0 with bC0 := v.extractLsb' 0 16 } ∧
    step (s.before (.write 0x028#16 .word v)) = .next { s.answered 0 with upg := v.extractLsb' 0 2 } ∧
    step (s.before (.write 0x02C#16 .word v)) = .next { s.answered 0 with nCo := v.extractLsb' 0 4 } ∧
    step (s.before (.write 0x034#16 .word v)) = .next { s.answered 0 with epcLoadval := v.extractLsb' 0 24 } ∧
    step (s.before (.write 0x048#16 .word v)) = .next { s.answered 0 with crcHdr := v.extractLsb' 0 8 } ∧
    step (s.before (.write 0x04C#16 .word v)) = .next { s.answered 0 with crcPay := v.extractLsb' 0 8 } ∧
    step (s.before (.write 0x050#16 .word v)) = .next { s.answered 0 with tsmaLfsr := v.extractLsb' 0 16 }

/-- R48, R49, R60, R64: a host write to a byte region stores the byte and nothing else; to a RO region, to KEY or
EUI64 once locked, it changes nothing (log 1, log 2, log 12). -/
def Obligations.ByteWriteStoresOrIsIgnored : Prop :=
  ∀ (s : State) (g : ByteRegion) (i : Nat) (v : Word), i < g.size →
    if (g = .key ∧ s.ctrl.keyLock = true) ∨ (g = .eui64 ∧ s.ctrl.euiLock = true) ∨ g = .aesOut ∨ g = .k1 ∨ g = .k2
        ∨ g = .tag then
      step (s.before (.write (BitVec.ofNat 16 (g.base + i)) .byte v)) = .next (s.answered 0)
    else
      ∃ t, step (s.before (.write (BitVec.ofNat 16 (g.base + i)) .byte v)) = .next t ∧
        t = { s.answered 0 with mem := t.mem } ∧ t.mem.read (g.base + i) = v.extractLsb' 0 8 ∧
        ∀ a, a ≠ g.base + i → t.mem.read a = s.mem.read a

/-- R56, R60, R64: host writes to a burst record: BITS[k], CARRIER and TRB are stored, each alone; CURSOR and
BIT_LENGTH ignore them (log 1, log 2). -/
def Obligations.BurstRecordHostWrites : Prop :=
  ∀ (s : State) (r : Nat) (v : Word), r < 260 →
    (∀ k < 5, ∃ t, step (s.before (.write (BitVec.ofNat 16 (0x1000 + 0x20 * r + k)) .byte v)) = .next t ∧
      t = { s.answered 0 with bursts := t.bursts } ∧ (∀ q, q ≠ r → t.burst q = s.burst q) ∧
      t.burst r = { s.burst r with bits := (t.burst r).bits } ∧
      ∀ j < 5, burstByte (t.burst r).bits j = if j = k then v.extractLsb' 0 8 else burstByte (s.burst r).bits j) ∧
    (∃ t, step (s.before (.write (BitVec.ofNat 16 (0x1000 + 0x20 * r + 0x08)) .word v)) = .next t ∧
      t = { s.answered 0 with bursts := t.bursts } ∧ (∀ q, q ≠ r → t.burst q = s.burst q) ∧
      t.burst r = { s.burst r with carrier := v.extractLsb' 0 16 }) ∧
    (∃ t, step (s.before (.write (BitVec.ofNat 16 (0x1000 + 0x20 * r + 0x0C)) .word v)) = .next t ∧
      t = { s.answered 0 with bursts := t.bursts } ∧ (∀ q, q ≠ r → t.burst q = s.burst q) ∧
      t.burst r = { s.burst r with trb := v.extractLsb' 0 16 }) ∧
    step (s.before (.write (BitVec.ofNat 16 (0x1000 + 0x20 * r + 0x10)) .word v)) = .next (s.answered 0) ∧
    step (s.before (.write (BitVec.ofNat 16 (0x1000 + 0x20 * r + 0x14)) .word v)) = .next (s.answered 0)

/-- R28, R48, R49, R57: once locked, KEY and EUI64 and their locks stay as they are through every step but the
platform's reset. -/
def Obligations.LockedKeyAndEuiStayUntilReset : Prop :=
  ∀ s t : State, s.hostQueue.head? ≠ some .reset → step s = .next t →
    (s.ctrl.keyLock = true → t.ctrl.keyLock = true ∧ ∀ i < 16, t.byte .key i = s.byte .key i) ∧
    (s.ctrl.euiLock = true → t.ctrl.euiLock = true ∧ ∀ i < 8, t.byte .eui64 i = s.byte .eui64 i)

/-- R48, R63: KEY is write-only: two states that differ only in KEY answer every read alike. -/
def Obligations.KeyBytesNeverReachTheBus : Prop :=
  ∀ (s u : State) (a : HostAddr) (n : AccessSize), DifferOnlyInKey s u →
    ∃ x y, step (s.before (.read a n)) = .next x ∧ step (u.before (.read a n)) = .next y ∧
      x.busResponse = y.busResponse

/-! ## Every command -/

/-- R169, R170, R171, R173, R175: a command that has an error reports the first in the order of R173 and changes
nothing but STATUS, RESULT, EVENTS.ERR, and F0 for PHY_ENCODE and SEND. -/
def Obligations.FailedCommandsChangeOnlyTheErrorState : Prop :=
  ∀ (i : Instr) (s : State) (c : Byte), commandError i s = some c →
    exec i s = .next (if clearsF0 i = true
      then { s.failed ((tableMatch i.mnemonic).extractLsb' 24 8) c with f0 := 0 }
      else s.failed ((tableMatch i.mnemonic).extractLsb' 24 8) c)

/-- R97: every command that has no error completes with LAST_ERR = 0, sets no EVENTS.ERR, clears no event bit, and
leaves the configuration, the host's accesses and the bus response as they were. -/
def Obligations.CommandsWithoutErrorComplete : Prop :=
  ∀ (i : Instr) (s : State), commandError i s = none →
    ∃ t, exec i s = .next t ∧
      t.status = { lastErr := 0#8, lastOp := (tableMatch i.mnemonic).extractLsb' 24 8 } ∧
      t.events.err = s.events.err ∧ (s.events.persistReq = true → t.events.persistReq = true) ∧
      (s.events.outValid = true → t.events.outValid = true) ∧
      t.ctrl = s.ctrl ∧ t.shortAddrOvr = s.shortAddrOvr ∧ t.chanA = s.chanA ∧ t.chanB = s.chanB ∧ t.bC = s.bC ∧
      t.bC0 = s.bC0 ∧ t.upg = s.upg ∧ t.nCo = s.nCo ∧ t.epcLoadval = s.epcLoadval ∧
      t.hostQueue = s.hostQueue ∧ t.busResponse = s.busResponse

/-- R57, R97: no command reads STATUS or RESULT, and none reads EVENTS: whatever the event bits were, the command does
the same and sets the same of them. -/
def Obligations.CommandsNeverReadStatusResultEvents : Prop :=
  ∀ (i : Instr) (s : State) (st : Status) (v : Word) (e : Events),
    exec i { s with status := st, result := v } = exec i s ∧
    ∃ (t : State) (set : Events),
      exec i s = .next { t with events :=
        { persistReq := s.events.persistReq || set.persistReq, outValid := s.events.outValid || set.outValid,
          err := s.events.err || set.err } } ∧
      exec i { s with events := e } = .next { t with events :=
        { persistReq := e.persistReq || set.persistReq, outValid := e.outValid || set.outValid,
          err := e.err || set.err } }

/-- R36, R101, R103: EPC_LOAD loads the EPC, a successful MAC_ENCODE or SEND increments it once, and no other command
and no failure changes it. -/
def Obligations.EpcChangesOnlyByLoadAndMacEncode : Prop :=
  ∀ (i : Instr) (s t : State), exec i s = .next t →
    (i = .epcLoad → t.epc = loadedEpc s.epcLoadval) ∧
    (i.mnemonic = .macEncode ∨ i.mnemonic = .send →
      t.epc = if t.status.lastErr = 0#8 then s.epc + 1 else s.epc) ∧
    (i.mnemonic ≠ .epcLoad → i.mnemonic ≠ .macEncode → i.mnemonic ≠ .send → t.epc = s.epc)

/-- The reset state is legal (R188). -/
def Obligations.ResetStateIsLegal : Prop := State.reset.Legal

/-- R26, R40, R41, R56, R74, R166, R167: every step keeps a state legal: the memory canonical and inside the map, the
cursors in 0..24, LAST_ERR a code the CORE raises, RESULT 0 after a failure, NUM_BURSTS and MPDU_LEN in range. -/
def Obligations.StepKeepsStateLegal : Prop := ∀ s t : State, s.Legal → step s = .next t → t.Legal

/-! ## Control commands and the packet counter -/

/-- R100: NOP writes STATUS and RESULT and nothing else. -/
def Obligations.NopResult : Prop :=
  ∀ s : State, exec .nop s = .next { s with status := { lastErr := 0x00#8, lastOp := 0x00#8 }, result := 0 }

/-- R101: EPC_LOAD: 0 for the sentinel, else the loaded value plus 256, which never wraps. -/
def Obligations.EpcLoadResult : Prop :=
  ∀ s : State, ∃ e : BitVec 32,
    e.toNat = (if s.epcLoadval = 0xFFFFFF#24 then 0 else s.epcLoadval.toNat + 256) ∧
    exec .epcLoad s = .next { s with status := { lastErr := 0x00#8, lastOp := 0x01#8 }, epc := e, result := e }

/-- R104: EPC_COMMIT stores the low 24 bits of the EPC and requests their persistence. -/
def Obligations.EpcCommitResult : Prop :=
  ∀ s : State, ∃ v : BitVec 24, v.toNat = s.epc.toNat % 2 ^ 24 ∧
    exec .epcCommit s = .next { s with
      status := { lastErr := 0x00#8, lastOp := 0x02#8 }, result := v.setWidth 32, epcStore := v,
      events := { s.events with persistReq := true } }

/-- R102: EpcIncrement: modulo 2^32, and a persist request exactly when the low byte becomes 0. -/
def Obligations.EpcIncrementResult : Prop :=
  ∀ s : State, ∃ e : BitVec 32, e.toNat = (s.epc.toNat + 1) % 2 ^ 32 ∧
    (e.toNat % 256 = 0 → epcIncrement s =
      { s with epc := e, epcStore := e.extractLsb' 0 24, events := { s.events with persistReq := true } }) ∧
    (e.toNat % 256 ≠ 0 → epcIncrement s = { s with epc := e })

/-- R105's derivation, as far as it holds: within the window of the last store of this power cycle. Every command but
EPC_LOAD keeps EPC_STORE at or below the EPC and in its block of 256 (EPC + 1 < 2^24), and from such a state with an EPC
below 2^24 - 256 an EPC_LOAD of EPC_STORE's value gives an EPC past the state's. The states between EPC_LOAD and the first
store after it are not in the window (log 21). -/
def Obligations.PersistWindowKeptAndReloadExceedsIt : Prop :=
  (∀ (i : Instr) (s t : State), i ≠ .epcLoad → s.epc.toNat + 1 < 2 ^ 24 → WithinPersistWindow s →
    exec i s = .next t → WithinPersistWindow t) ∧
  ∀ s u : State, WithinPersistWindow s → s.epc.toNat < 2 ^ 24 - 256 → u.epcLoadval = s.epcStore →
    ∃ t, exec .epcLoad u = .next t ∧ s.epc.toNat < t.epc.toNat

/-- R105 as the spec states it: the host stores EPC_STORE on every PERSIST_REQ and runs EPC_LOAD on every boot, and only
there; then every EPC used after a boot is greater than every EPC used before it, while the EPC stays below 2^24 - 256. It
does not hold: a power cycle that ends before its first store leaves the old value stored, and the next boot loads the
same EPC again (log 21). -/
def Obligations.CountersUsedAfterABootExceedEarlierOnes : Prop :=
  ∀ (store : BitVec 24) (cycles : List (List HostEvent)),
    (∀ events ∈ cycles, ∀ e ∈ events, e ≠ .reset ∧ e ≠ commandWrite (encode .epcLoad)) →
    (∀ c ∈ powerCycles store cycles, c.highest < 2 ^ 24 - 256) →
    (powerCycles store cycles).Pairwise (fun b c => ∀ x ∈ b.used, ∀ y ∈ c.used, x < y)

/-! ## AES and CMAC -/

/-- R108: every S-box entry is the affine map of the field inverse, XORed with 0x63. 95_test_vectors.md L1.1: the
cipher reproduces the source's vector. -/
def Obligations.SboxIsAffineOfInverseAndSourceVector : Prop :=
  (∀ x : Byte, sbox x = sboxAffine (gfInv x) ^^^ 0x63#8 ∧ (x ≠ 0#8 → gfMul x (gfInv x) = 1#8)) ∧
  aes 0x2b7e151628aed2a6abf7158809cf4f3c#128 0x6bc1bee22e409f96e93d7e117393172a#128 =
    0x3ad77bb40d7a3660a89ecaf32466ef97#128

/-- R112: AES_BLOCK encrypts AES_IN under KEY into AES_OUT, with no lock needed, and changes nothing else. -/
def Obligations.AesBlockResult : Prop :=
  ∀ s : State, ∃ t, exec .aesBlock s = .next t ∧
    t = { s with status := { lastErr := 0x00#8, lastOp := 0x10#8 }, result := 0, mem := t.mem } ∧
    (∀ i < 16, t.byte .aesOut i = blockByte (aes (s.block .key) (s.block .aesIn)) i) ∧
    ∀ a, ¬(0x0130 ≤ a ∧ a ≤ 0x013F) → t.mem.read a = s.mem.read a

/-- R113, R114, R117: CMAC_SUBKEYS writes K1 and K2, the doublings of AES(KEY, 0), and changes nothing else; a
doubling is the shift with the carried-out bit folded into byte 15. -/
def Obligations.CmacSubkeysResult : Prop :=
  (∀ b : Block, (dbl b).toNat =
    if 2 ^ 127 ≤ b.toNat then (2 * b.toNat - 2 ^ 128) ^^^ 0x87 else 2 * b.toNat) ∧
  ∀ s : State, ∃ t, exec .cmacSubkeys s = .next t ∧
    t = { s with status := { lastErr := 0x00#8, lastOp := 0x11#8 }, result := 0, mem := t.mem } ∧
    (∀ i < 16, t.byte .k1 i = blockByte (dbl (aes (s.block .key) 0)) i ∧
      t.byte .k2 i = blockByte (dbl (dbl (aes (s.block .key) 0))) i) ∧
    ∀ a, ¬(0x0140 ≤ a ∧ a ≤ 0x015F) → t.mem.read a = s.mem.read a

/-- R118: CMAC over a slice of MPDU, the IV in front when IVP = 1: TAG, the subkeys, RESULT, nothing else; its two
errors, in order. -/
def Obligations.CmacResult : Prop :=
  ∀ (s : State) (start : BitVec 8) (len : BitVec 9) (ivp : BitVec 1),
    (256 < start.toNat + len.toNat → exec (.cmac start len ivp) s = .next (s.failed 0x12#8 6#8)) ∧
    (start.toNat + len.toNat ≤ 256 → ivp = 1#1 → ¬Provisioned s →
      exec (.cmac start len ivp) s = .next (s.failed 0x12#8 1#8)) ∧
    (start.toNat + len.toNat ≤ 256 → (ivp = 1#1 → Provisioned s) →
      ∃ t, exec (.cmac start len ivp) s = .next t ∧
        let data := (List.range len.toNat).map (fun i => s.byte .mpdu (start.toNat + i))
        let tag := cmac (s.block .key) (if ivp = 1#1 then cmacIv s ++ data else data)
        t = { s with status := { lastErr := 0x00#8, lastOp := 0x12#8 }, result := t.result, mem := t.mem } ∧
        t.result = blockByte tag 0 ++ blockByte tag 1 ++ blockByte tag 2 ++ blockByte tag 3 ∧
        (∀ i < 16, t.byte .tag i = blockByte tag i ∧
          t.byte .k1 i = blockByte (dbl (aes (s.block .key) 0)) i ∧
          t.byte .k2 i = blockByte (dbl (dbl (aes (s.block .key) 0))) i) ∧
        ∀ a, ¬(0x0140 ≤ a ∧ a ≤ 0x016F) → t.mem.read a = s.mem.read a)

/-- R115, R116: CMAC for a message of any length. All blocks but the last are chained from zero. The last one, of 1 to 16
bytes (of none for the empty message), takes K1 if it is whole; else it is padded with 0x80 and zeros and takes K2. After
an IV the chain of a nonempty message starts from AES(K, IV); an IV alone is one whole block. -/
def Obligations.CmacBlockSelection : Prop :=
  (∀ bytes : List Byte, bytes.length = 16 → ∀ i < 16, blockByte (blockOfBytes bytes) i = bytes.getD i 0) ∧
  (∀ (k : Block) (msg : List Byte),
    let n := (msg.length - 1) / 16
    let tail := msg.drop (16 * n)
    cmac k msg = aes k (cmacChain k msg n ^^^
      (if tail.length = 16 then blockOfBytes tail ^^^ dbl (aes k 0)
        else blockOfBytes (tail ++ 0x80#8 :: List.replicate (15 - tail.length) 0#8) ^^^ dbl (dbl (aes k 0))))) ∧
  ∀ (k : Block) (iv msg : List Byte), iv.length = 16 →
    (msg ≠ [] → cmacChain k (iv ++ msg) 1 = aes k (blockOfBytes iv)) ∧
    cmac k iv = aes k (blockOfBytes iv ^^^ dbl (aes k 0)) ∧
    cmac k [] = aes k (blockOfBytes (0x80#8 :: List.replicate 15 0#8) ^^^ dbl (dbl (aes k 0))) ∧
    (msg.length = 16 → cmac k (iv ++ msg) = aes k (aes k (blockOfBytes iv) ^^^ blockOfBytes msg ^^^ dbl (aes k 0)))

/-! ## Radio bursts -/

/-- R120: BURST_CLEAR N zeroes records 0..N-1 and leaves the others; N > 260 is OPERAND_RANGE. -/
def Obligations.BurstClearResult : Prop :=
  ∀ (s : State) (n : BitVec 9),
    (260 < n.toNat → exec (.burstClear n) s = .next (s.failed 0x20#8 6#8)) ∧
    (n.toNat ≤ 260 → ∃ t, exec (.burstClear n) s = .next t ∧
      t = { s with status := { lastErr := 0x00#8, lastOp := 0x20#8 }, result := 0, bursts := t.bursts } ∧
      ∀ r < 260, t.burst r =
        if r < n.toNat then { bits := 0, cursor := 0, carrier := 0, trb := 0 } else s.burst r)

/-- R121: WRITE_SUB_PACKET_BIT writes one bit at the interleaved position, advances the cursor, answers the stream bit,
and changes nothing else of the record or the state; a record past 259 and a full record are OPERAND_RANGE. -/
def Obligations.WriteSubPacketBitResult : Prop :=
  ∀ (s : State) (r : BitVec 9) (bit : BitVec 1),
    (259 < r.toNat ∨ 24 ≤ (s.burst r.toNat).cursor.toNat →
      exec (.writeSubPacketBit r bit) s = .next (s.failed 0x21#8 6#8)) ∧
    (r.toNat ≤ 259 → (s.burst r.toNat).cursor.toNat < 24 →
      ∃ t, exec (.writeSubPacketBit r bit) s = .next t ∧
        let n := (s.burst r.toNat).cursor.toNat
        let pos := if (r.toNat + n) % 2 = 1 then 24 + n / 2 else 11 - n / 2
        t = { s with status := { lastErr := 0x00#8, lastOp := 0x21#8 }, result := BitVec.ofNat 32 (pos + 2),
                     bursts := t.bursts } ∧
        (∀ q, q ≠ r.toNat → t.burst q = s.burst q) ∧
        t.burst r.toNat = { s.burst r.toNat with bits := (t.burst r.toNat).bits, cursor := BitVec.ofNat 5 (n + 1) } ∧
        ∀ i < 40, burstBit (t.burst r.toNat).bits i =
          if i = pos + 2 then bit == 1#1 else burstBit (s.burst r.toNat).bits i)

/-- R119, R121: in every record the 24 cursor values go to 24 different data positions, 0..11 and 24..35. -/
def Obligations.SubPacketPositionsFillDataSlots : Prop :=
  ∀ r : Nat,
    (∀ n < 24, subPacketPos r n < 12 ∨ (24 ≤ subPacketPos r n ∧ subPacketPos r n < 36)) ∧
    ∀ n < 24, ∀ k < 24, subPacketPos r n = subPacketPos r k → n = k

/-- R122: WRITE_BIT_IDX writes one raw stream bit and nothing else, the cursor stays; a record past 259 and an index past
39 are OPERAND_RANGE. -/
def Obligations.WriteBitIdxResult : Prop :=
  ∀ (s : State) (r : BitVec 9) (idx : BitVec 6) (bit : BitVec 1),
    (259 < r.toNat ∨ 39 < idx.toNat → exec (.writeBitIdx r idx bit) s = .next (s.failed 0x22#8 6#8)) ∧
    (r.toNat ≤ 259 → idx.toNat ≤ 39 → ∃ t, exec (.writeBitIdx r idx bit) s = .next t ∧
      t = { s with status := { lastErr := 0x00#8, lastOp := 0x22#8 }, result := 0, bursts := t.bursts } ∧
      (∀ q, q ≠ r.toNat → t.burst q = s.burst q) ∧
      t.burst r.toNat = { s.burst r.toNat with bits := (t.burst r.toNat).bits } ∧
      ∀ i < 40, burstBit (t.burst r.toNat).bits i =
        if i = idx.toNat then bit == 1#1 else burstBit (s.burst r.toNat).bits i)

/-- R123: ADD_MIDAMBLE writes the twelve digits, leftmost first, at stream bits 14..25, and nothing else; a record past
259 is OPERAND_RANGE. -/
def Obligations.AddMidambleResult : Prop :=
  ∀ (s : State) (r : BitVec 9),
    (259 < r.toNat → exec (.addMidamble r) s = .next (s.failed 0x23#8 6#8)) ∧
    (r.toNat ≤ 259 → ∃ t, exec (.addMidamble r) s = .next t ∧
      let digits : List Bool :=
        if r.toNat < 24 then [false, true, true, true, false, true, false, false, false, false, true, false]
        else [false, true, false, false, true, true, true, true, true, false, true, false]
      t = { s with status := { lastErr := 0x00#8, lastOp := 0x23#8 }, result := 0, bursts := t.bursts } ∧
      (∀ q, q ≠ r.toNat → t.burst q = s.burst q) ∧
      t.burst r.toNat = { s.burst r.toNat with bits := (t.burst r.toNat).bits } ∧
      ∀ i < 40, burstBit (t.burst r.toNat).bits i =
        if 14 ≤ i ∧ i ≤ 25 then digits.getD (i - 14) false else burstBit (s.burst r.toNat).bits i)

/-- R124: DIFF_MSK makes stream bit i the XOR of the input's stream bits 0..i, over all 40 bits, then forces stream
bit 0 to 1; nothing else changes; a record past 259 is OPERAND_RANGE. -/
def Obligations.DiffMskResult : Prop :=
  ∀ (s : State) (r : BitVec 9),
    (259 < r.toNat → exec (.diffMsk r) s = .next (s.failed 0x24#8 6#8)) ∧
    (r.toNat ≤ 259 → ∃ t, exec (.diffMsk r) s = .next t ∧
      t = { s with status := { lastErr := 0x00#8, lastOp := 0x24#8 }, result := 0, bursts := t.bursts } ∧
      (∀ q, q ≠ r.toNat → t.burst q = s.burst q) ∧
      t.burst r.toNat = { s.burst r.toNat with bits := (t.burst r.toNat).bits } ∧
      ∀ i < 40, burstBit (t.burst r.toNat).bits i =
        if i = 0 then true else prefixXor (s.burst r.toNat).bits i)

/-- R125, as far as it holds: differentiating recovers the input at every position from 2 on, and at position 1 the
input XOR the complement of input bit 0, which the forced head bit hides (log 15). -/
def Obligations.DiffMskRoundTripFromPositionTwo : Prop :=
  ∀ x : BurstBits,
    (∀ i, 2 ≤ i → i < 40 → (burstBit (diffMskBits x) i ^^ burstBit (diffMskBits x) (i - 1)) = burstBit x i) ∧
    (burstBit (diffMskBits x) 1 ^^ burstBit (diffMskBits x) 0) = (burstBit x 1 ^^ !burstBit x 0)

/-- R125 as the spec states it, from position 1 on. It does not hold: at position 1 the forced head bit stands in for
the input's bit 0 (log 15). -/
def Obligations.DiffMskRoundTripFromPositionOne : Prop :=
  ∀ (x : BurstBits) (i : Nat), 1 ≤ i → i < 40 →
    burstBit x i = (burstBit (diffMskBits x) i ^^ burstBit (diffMskBits x) (i - 1))

/-- R126: PUNCTURE sets CARRIER to 0xFFFF and changes nothing else; BIT_LENGTH then reads 0; a record past 259 is
OPERAND_RANGE. -/
def Obligations.PunctureResult : Prop :=
  ∀ (s : State) (r : BitVec 9),
    (259 < r.toNat → exec (.puncture r) s = .next (s.failed 0x25#8 6#8)) ∧
    (r.toNat ≤ 259 → ∃ t, exec (.puncture r) s = .next t ∧
      t = { s with status := { lastErr := 0x00#8, lastOp := 0x25#8 }, result := 0, bursts := t.bursts } ∧
      (∀ q, q ≠ r.toNat → t.burst q = s.burst q) ∧
      t.burst r.toNat = { s.burst r.toNat with carrier := 0xFFFF#16 } ∧
      t.readLoc (.burstBitLength r.toNat) = 0)

/-! ## MAC -/

/-- R133: CTR_CRYPT XORs the keystream of CtrIV(0), CtrIV(1), … over its slice of MPDU and changes nothing else; its two
errors, in order. R130: the IV blocks are EUI64, 0, 0, the EPC big-endian, then 0 and the block number, or FF FF. -/
def Obligations.CtrCryptResult : Prop :=
  (∀ (s : State) (b : Nat),
    let base := [s.byte .eui64 0, s.byte .eui64 1, s.byte .eui64 2, s.byte .eui64 3, s.byte .eui64 4,
      s.byte .eui64 5, s.byte .eui64 6, s.byte .eui64 7, 0x00#8, 0x00#8, s.epc.extractLsb' 24 8,
      s.epc.extractLsb' 16 8, s.epc.extractLsb' 8 8, s.epc.extractLsb' 0 8]
    ctrIv s b = base ++ [0x00#8, BitVec.ofNat 8 b] ∧ cmacIv s = base ++ [0xFF#8, 0xFF#8]) ∧
  ∀ (s : State) (start : BitVec 8) (len : BitVec 9),
    (256 < start.toNat + len.toNat → exec (.ctrCrypt start len) s = .next (s.failed 0x30#8 6#8)) ∧
    (start.toNat + len.toNat ≤ 256 → ¬Provisioned s →
      exec (.ctrCrypt start len) s = .next (s.failed 0x30#8 1#8)) ∧
    (start.toNat + len.toNat ≤ 256 → Provisioned s →
      ∃ t, exec (.ctrCrypt start len) s = .next t ∧
        t = { s with status := { lastErr := 0x00#8, lastOp := 0x30#8 },
                     result := BitVec.ofNat 32 ((len.toNat + 15) / 16), mem := t.mem } ∧
        (∀ j < len.toNat, t.byte .mpdu (start.toNat + j) = s.byte .mpdu (start.toNat + j) ^^^ keystreamByte s j) ∧
        ∀ a, ¬(0x0300 + start.toNat ≤ a ∧ a < 0x0300 + start.toNat + len.toNat) → t.mem.read a = s.mem.read a)

/-- R133: CTR_CRYPT is its own inverse at the same EPC: the same command twice leaves every byte as it was. -/
def Obligations.CtrCryptTwiceRestores : Prop :=
  ∀ (s t u : State) (start : BitVec 8) (len : BitVec 9), start.toNat + len.toNat ≤ 256 → Provisioned s →
    exec (.ctrCrypt start len) s = .next t → exec (.ctrCrypt start len) t = .next u →
    ∀ a, u.mem.read a = s.mem.read a

/-- R134 (with R128, R129, R131, R132): MAC_ENCODE builds the MPDU: header, address, counter, the encrypted MPF byte
and payload, the MIC; it writes TAG, the subkeys and MPDU_LEN, increments the EPC, and changes nothing else; its three
errors, in order. -/
def Obligations.MacEncodeBuildsMpdu : Prop :=
  ∀ (s : State) (len : BitVec 9) (mpf : BitVec 1) (mpfv : Byte),
    let a := if s.ctrl.addrLong = true then 8 else 2
    let clen := mpf.toNat + len.toNat
    let be := 4 + a
    let m := be + clen + 4
    (mpf = 0#1 → mpfv ≠ 0#8 → exec (.macEncode len mpf mpfv) s = .next (s.failed 0x31#8 6#8)) ∧
    ((mpf = 0#1 → mpfv = 0#8) → ¬Provisioned s →
      exec (.macEncode len mpf mpfv) s = .next (s.failed 0x31#8 1#8)) ∧
    ((mpf = 0#1 → mpfv = 0#8) → Provisioned s → 255 < m →
      exec (.macEncode len mpf mpfv) s = .next (s.failed 0x31#8 2#8)) ∧
    ((mpf = 0#1 → mpfv = 0#8) → Provisioned s → m ≤ 255 →
      ∃ t, exec (.macEncode len mpf mpfv) s = .next t ∧
        t = { epcIncrement s with status := { lastErr := 0x00#8, lastOp := 0x31#8 }, result := BitVec.ofNat 32 m,
                                  mpduLen := BitVec.ofNat 9 m, mem := t.mem } ∧
        (t.byte .mpdu 0).toNat = 32 * s.ctrl.addrLong.toNat + 2 * mpf.toNat ∧
        (s.ctrl.addrLong = true → ∀ i < 8, t.byte .mpdu (1 + i) = s.byte .eui64 i) ∧
        (s.ctrl.addrLong = false → s.ctrl.shortOvrEn = true →
          t.byte .mpdu 1 = s.shortAddrOvr.extractLsb' 8 8 ∧ t.byte .mpdu 2 = s.shortAddrOvr.extractLsb' 0 8) ∧
        (s.ctrl.addrLong = false → s.ctrl.shortOvrEn = false →
          t.byte .mpdu 1 = s.byte .eui64 6 ∧ t.byte .mpdu 2 = s.byte .eui64 7) ∧
        t.byte .mpdu (be - 3) = s.epc.extractLsb' 16 8 ∧ t.byte .mpdu (be - 2) = s.epc.extractLsb' 8 8 ∧
        t.byte .mpdu (be - 1) = s.epc.extractLsb' 0 8 ∧
        (∀ j < clen, t.byte .mpdu (be + j) = plainByte s (mpf == 1#1) mpfv j ^^^ keystreamByte s j) ∧
        t.block .tag = cmac (s.block .key)
          (cmacIv s ++ (List.range (m - 4)).map (fun i => t.byte .mpdu i)) ∧
        (∀ i < 4, t.byte .mpdu (m - 4 + i) = t.byte .tag i) ∧
        (∀ i < 16, t.byte .k1 i = blockByte (dbl (aes (s.block .key) 0)) i ∧
          t.byte .k2 i = blockByte (dbl (dbl (aes (s.block .key) 0))) i) ∧
        ∀ x, ¬(0x0140 ≤ x ∧ x ≤ 0x016F) → ¬(0x0300 ≤ x ∧ x < 0x0300 + m) → t.mem.read x = s.mem.read x)

/-! ## PHY coding -/

/-- R137 (with R136): NUM_BURSTS answers the burst count and writes no register but STATUS and RESULT; N > 255 is
PAYLOAD_TOO_LONG. -/
def Obligations.NumBurstsResult : Prop :=
  ∀ (s : State) (n : BitVec 9),
    (255 < n.toNat → exec (.numBursts n) s = .next (s.failed 0x40#8 2#8)) ∧
    (n.toNat ≤ 255 → exec (.numBursts n) s = .next { s with
      status := { lastErr := 0x00#8, lastOp := 0x40#8 },
      result := if n.toNat < 20 then 24 else BitVec.ofNat 32 (n.toNat + 4) })

/-- R138, R139, R154, R155: CRC8 and CRC2 answer the CRC of a bit range of PHYBUF and change no other state; each CRC
starts at all ones and takes one bit at a time, most significant register bit first; a range past
PHYBUF is OPERAND_RANGE. -/
def Obligations.CrcCommandResults : Prop :=
  (∀ (buf : Nat → Byte) (st n : Nat), crc8Of buf st 0 = 0xFF#8 ∧
    (crc8Of buf st (n + 1)).toNat =
      (2 * (crc8Of buf st n).toNat % 256) ^^^
        (if (decide (128 ≤ (crc8Of buf st n).toNat) ^^ bitRead buf (st + n)) = true then 0x9B else 0)) ∧
  (∀ (bit : Nat → Bool) (st n : Nat), crc2Of bit st 0 = 3#2 ∧
    (crc2Of bit st (n + 1)).toNat =
      (2 * (crc2Of bit st n).toNat % 4) ^^^
        (if (decide (2 ≤ (crc2Of bit st n).toNat) ^^ bit (st + n)) = true then 3 else 0)) ∧
  ∀ (s : State) (bstart blen : BitVec 12),
    (2072 < bstart.toNat + blen.toNat →
      exec (.crc8 bstart blen) s = .next (s.failed 0x42#8 6#8) ∧
      exec (.crc2 bstart blen) s = .next (s.failed 0x53#8 6#8)) ∧
    (bstart.toNat + blen.toNat ≤ 2072 →
      exec (.crc8 bstart blen) s = .next { s with
        status := { lastErr := 0x00#8, lastOp := 0x42#8 },
        result := (crc8Of (s.byte .phybuf) bstart.toNat blen.toNat).setWidth 32 } ∧
      exec (.crc2 bstart blen) s = .next { s with
        status := { lastErr := 0x00#8, lastOp := 0x53#8 },
        result := (crc2Of (bitRead (s.byte .phybuf)) bstart.toNat blen.toNat).setWidth 32 })

/-- R140: PHY_ASSEMBLE fills PHYBUF[0..nb-1], the CRC registers and NUM_BURSTS, and changes nothing else; MLEN > 255 is
PAYLOAD_TOO_LONG. -/
def Obligations.PhyAssembleResult : Prop :=
  ∀ (s : State) (mlen : BitVec 9) (mmode : BitVec 2),
    let m := mlen.toNat
    let nb := if m < 20 then 24 else m + 4
    (255 < m → exec (.phyAssemble mlen mmode) s = .next (s.failed 0x41#8 2#8)) ∧
    (m ≤ 255 → ∃ t, exec (.phyAssemble mlen mmode) s = .next t ∧
      t = { s with status := { lastErr := 0x00#8, lastOp := 0x41#8 }, result := BitVec.ofNat 32 nb,
                   numBursts := BitVec.ofNat 9 nb, crcHdr := t.byte .phybuf 0, crcPay := t.byte .phybuf 1,
                   mem := t.mem } ∧
      (∀ i < m, t.byte .phybuf (3 + i) = s.byte .mpdu i) ∧
      (t.byte .phybuf 2).toNat = m ∧
      (∀ i, 3 + m ≤ i → i < nb - 1 → t.byte .phybuf i = 0) ∧
      (t.byte .phybuf (nb - 1)).toNat = 64 * mmode.toNat ∧
      t.byte .phybuf 1 = crc8Of (t.byte .phybuf) 24 (8 * m + 2) ∧
      t.byte .phybuf 0 = crc8Of (t.byte .phybuf) 8 16 ∧
      ∀ a, ¬(0x0400 ≤ a ∧ a < 0x0400 + nb) → t.mem.read a = s.mem.read a)

/-- R141: WHITEN XORs PHYBUF[0..N-1] with the low byte of the register, advanced eight times for each byte, keeps the top
two bits of the last byte and clears its low six, leaves the final register, and changes nothing else; N = 0 and N > 259
are OPERAND_RANGE. R142 (a): the XOR bytes have period 15. -/
def Obligations.WhitenResult : Prop :=
  (∀ x : BitVec 16, (whitenStep x).toNat = (2 * x.toNat % 65536) ^^^ ((x.toNat / 512 + x.toNat / 16) % 2)) ∧
  (∀ j < 259, (whitenStep^[8 * (j + 1)] 0x1FF#16).extractLsb' 0 8 = whitenPeriod.getD (j % 15) 0) ∧
  ∀ (s : State) (n : BitVec 9),
    (n.toNat < 1 ∨ 259 < n.toNat → exec (.whiten n) s = .next (s.failed 0x43#8 6#8)) ∧
    (1 ≤ n.toNat → n.toNat ≤ 259 → ∃ t, exec (.whiten n) s = .next t ∧
      t = { s with status := { lastErr := 0x00#8, lastOp := 0x43#8 }, result := 0,
                   whitenLfsr := whitenStep^[8 * n.toNat] 0x1FF#16, mem := t.mem } ∧
      (∀ j < n.toNat, t.byte .phybuf j =
        (s.byte .phybuf j ^^^ (whitenStep^[8 * (j + 1)] 0x1FF#16).extractLsb' 0 8) &&&
          (if j = n.toNat - 1 then 0xC0#8 else 0xFF#8)) ∧
      ∀ a, ¬(0x0400 ≤ a ∧ a < 0x0400 + n.toNat) → t.mem.read a = s.mem.read a)

/-- R142 (b): whitening twice with the same N restores the buffer, if the low six bits of byte N-1 were 0. -/
def Obligations.WhitenTwiceRestores : Prop :=
  ∀ (s t u : State) (n : BitVec 9), 1 ≤ n.toNat → n.toNat ≤ 259 → s.byte .phybuf (n.toNat - 1) &&& 0x3F#8 = 0#8 →
    exec (.whiten n) s = .next t → exec (.whiten n) t = .next u → ∀ a, u.mem.read a = s.mem.read a

/-- R145: for every nb in 24..259 the interleaver maps the 24·nb coded bits one to one onto the data slots, payload
positions 0..11 and 24..35 of records 0..nb-1; no coded bit reaches positions 12..23. -/
def Obligations.InterleaverIsOneToOneOntoDataSlots : Prop :=
  ∀ nb, 24 ≤ nb → nb ≤ 259 →
    let pos := fun o => subPacketPos (route o nb) (arrival o nb)
    (∀ o < 24 * nb, route o nb < nb ∧ (pos o < 12 ∨ (24 ≤ pos o ∧ pos o < 36))) ∧
    (∀ o < 24 * nb, ∀ q < 24 * nb, route o nb = route q nb → pos o = pos q → o = q) ∧
    ∀ r < nb, ∀ p, (p < 12 ∨ (24 ≤ p ∧ p < 36)) → ∃ o < 24 * nb, route o nb = r ∧ pos o = p

/-- R144: CONV_INTERLEAVE puts every coded bit at its place: coded bit o, the parity of the window under its polynomial,
lands in burst Route(o, N) at the position of its arrival there. Every cursor below N ends at 24; head, midamble and tail
bits, CARRIER, TRB, the other records and the rest of the state are unchanged; CONV_SR holds the last six input bits. A
count outside 24..259 and a cursor that is not 0 are OPERAND_RANGE. -/
def Obligations.ConvInterleaveScattersCodedBits : Prop :=
  ∀ (s : State) (n : BitVec 9),
    (n.toNat < 24 ∨ 259 < n.toNat ∨ (∃ r < n.toNat, (s.burst r).cursor ≠ 0#5) →
      exec (.convInterleave n) s = .next (s.failed 0x44#8 6#8)) ∧
    (24 ≤ n.toNat → n.toNat ≤ 259 → (∀ r < n.toNat, (s.burst r).cursor = 0#5) →
      ∃ t, exec (.convInterleave n) s = .next t ∧
        t = { s with status := { lastErr := 0x00#8, lastOp := 0x44#8 }, result := 0, convSr := t.convSr,
                     bursts := t.bursts } ∧
        (∀ o < 24 * n.toNat,
          burstBit (t.burst (route o n.toNat)).bits (subPacketPos (route o n.toNat) (arrival o n.toNat) + 2) =
            codedBit (s.byte .phybuf) n.toNat o) ∧
        (∀ r < n.toNat, t.burst r = { s.burst r with bits := (t.burst r).bits, cursor := 24#5 } ∧
          ∀ i < 40, i < 2 ∨ (14 ≤ i ∧ i < 26) ∨ 38 ≤ i →
            burstBit (t.burst r).bits i = burstBit (s.burst r).bits i) ∧
        (∀ r, n.toNat ≤ r → t.burst r = s.burst r) ∧
        ∀ d < 6, t.convSr.getLsbD d = bitRead (s.byte .phybuf) (8 * n.toNat - 17 - d))

/-! ## TSMA, frequency, sync -/

/-- R150, R151: TSMA_ASSIGN gives bursts 0..NB-1 their carriers and delays: the tables for the core bursts, the LFSR for
the extension bursts, 0 after the last; BITS, CURSOR, the other records and the rest of the state are unchanged; its two
errors, in order. R7: the row of the carrier table the spec transcribes, and the bound 0..23 of every entry. -/
def Obligations.TsmaAssignResult : Prop :=
  ((List.range 24).map (tsmaCRb 1#2 0#3) =
      [5, 21, 13, 6, 22, 14, 1, 17, 9, 0, 16, 8, 7, 23, 15, 4, 20, 12, 3, 19, 11, 2, 18, 10] ∧
    ∀ (upg : BitVec 2) (pattern : BitVec 3) (i : Nat), tsmaCRb upg pattern i < 24) ∧
  ∀ (s : State) (nb : BitVec 9) (pat : BitVec 3),
    (nb.toNat < 24 ∨ 259 < nb.toNat → exec (.tsmaAssign nb pat) s = .next (s.failed 0x50#8 6#8)) ∧
    (24 ≤ nb.toNat → nb.toNat ≤ 259 → ¬RegionOk s →
      exec (.tsmaAssign nb pat) s = .next (s.failed 0x50#8 1#8)) ∧
    (24 ≤ nb.toNat → nb.toNat ≤ 259 → RegionOk s →
      ∃ t, exec (.tsmaAssign nb pat) s = .next t ∧
        let p := if s.upg = 3#2 then 0#3 else pat
        let seed := 0x8000#16 ||| (s.crcHdr ++ s.crcPay)
        let ts := if s.upg = 3#2 then 66 else 337
        t = { s with status := { lastErr := 0x00#8, lastOp := 0x50#8 }, result := 0,
                     tsmaLfsr := extensionState seed (nb.toNat - 1), bursts := t.bursts } ∧
        (∀ i < 24, (t.burst i).carrier.toNat = tsmaCRb s.upg p i * s.bC.toNat) ∧
        (∀ i < 23, (t.burst i).trb = Config.tsmaTRb s.upg p i) ∧
        (∀ i, 24 ≤ i → i < nb.toNat →
          (t.burst i).carrier.toNat = (extensionState seed i).toNat / 256 % 25 * s.bC.toNat ∧
          (t.burst (i - 1)).trb.toNat = ts + (extensionState seed i).toNat % 128) ∧
        (t.burst (nb.toNat - 1)).trb = 0 ∧
        (∀ i < nb.toNat, t.burst i = { s.burst i with carrier := (t.burst i).carrier, trb := (t.burst i).trb } ∧
          (t.burst i).carrier ≠ 0xFFFF#16) ∧
        ∀ r, nb.toNat ≤ r → t.burst r = s.burst r)

/-- R147, R148, R149: LFSR_STEP advances TSMA_LFSR once and answers it; the step is a bijection that maps only 0
to 0. -/
def Obligations.LfsrStepResult : Prop :=
  (∀ s : State, ∃ x : BitVec 16,
    x.toNat = (if s.tsmaLfsr.toNat % 2 = 1 then (s.tsmaLfsr.toNat / 2) ^^^ 0xB4F3 else s.tsmaLfsr.toNat / 2) ∧
    exec .lfsrStep s = .next { s with
      status := { lastErr := 0x00#8, lastOp := 0x51#8 }, result := x.setWidth 32, tsmaLfsr := x }) ∧
  Function.Bijective lfsrNext ∧ ∀ x, lfsrNext x = 0#16 ↔ x = 0#16

/-- R153 (with R152): CALC_F0 answers and stores f_0, the formula in exact integer arithmetic, which RegionCheck keeps
in 1..0xFFFFFFFF; without RegionCheck it is CONFIG_ERROR. -/
def Obligations.CalcF0Result : Prop :=
  ∀ s : State,
    (¬RegionOk s → exec .calcF0 s = .next (s.failed 0x52#8 1#8)) ∧
    (RegionOk s → ∃ f : BitVec 32,
      let fc := if 128 ≤ s.crcPay.toNat then s.chanB else s.chanA
      (f.toNat : Int) = (fc.toNat : Int) - 12 * s.bC.toNat
        + (((s.crcPay.toNat % 128 % s.nCo.toNat : Nat) : Int) - ((s.nCo.toNat / 2 : Nat) : Int)) * s.bC0.toNat ∧
      1 ≤ f.toNat ∧
      exec .calcF0 s = .next { s with status := { lastErr := 0x00#8, lastOp := 0x52#8 }, result := f, f0 := f })

/-- R156, R157: SYNC_ENCODE builds record 259: the 36 sequence bits at stream bits 2..37 of a zero burst, then the
differential pre-coder; carrier 24·B_C, the fixed delay, cursor 0; RESULT is the CRC-2; nothing else changes. Without
RegionCheck or EUI_LOCK it is CONFIG_ERROR. -/
def Obligations.SyncEncodeResult : Prop :=
  ∀ (s : State) (pat : BitVec 3),
    (¬RegionOk s ∨ s.ctrl.euiLock = false → exec (.syncEncode pat) s = .next (s.failed 0x54#8 1#8)) ∧
    (RegionOk s → s.ctrl.euiLock = true →
      ∃ (t : State) (seq p : BurstBits) (c : BitVec 2), exec (.syncEncode pat) s = .next t ∧
        (burstByte seq 0 = 0x33#8 ∧ burstByte seq 1 = 0x3D#8 ∧ burstByte seq 2 = 0x30#8 + pat.setWidth 8 ∧
          burstByte seq 3 = (if s.ctrl.shortOvrEn = true then s.shortAddrOvr.extractLsb' 0 8 else s.byte .eui64 7)) ∧
        (burstBit seq 32 = (s.upg == 3#2) ∧ burstBit seq 33 = (s.upg == 2#2) ∧
          c = crc2Of (burstBit seq) 20 14 ∧ burstBit seq 34 = c.getLsbD 1 ∧ burstBit seq 35 = c.getLsbD 0) ∧
        (∀ i < 40, burstBit p i = if 2 ≤ i ∧ i < 38 then burstBit seq (i - 2) else false) ∧
        t = { s with status := { lastErr := 0x00#8, lastOp := 0x54#8 }, result := c.setWidth 32,
                     bursts := t.bursts } ∧
        (∀ r, r ≠ 259 → t.burst r = s.burst r) ∧
        (∀ i < 40, burstBit (t.burst 259).bits i = if i = 0 then true else prefixXor p i) ∧
        (t.burst 259).cursor = 0 ∧ (t.burst 259).carrier.toNat = 24 * s.bC.toNat ∧
        (t.burst 259).trb.toNat = if s.upg = 3#2 then 66 else 337)

/-- R158, R159: TSMA_PATTERN answers ORDER[COUNTER mod 15] and changes no other state; patterns 6 and 7 never come
from it. -/
def Obligations.TsmaPatternResult : Prop :=
  ∀ (s : State) (counter : BitVec 24), ∃ p : Nat,
    [0, 1, 2, 3, 0, 1, 2, 3, 4, 0, 1, 2, 3, 4, 5][counter.toNat % 15]? = some p ∧ p ≤ 5 ∧
    exec (.tsmaPattern counter) s = .next { s with
      status := { lastErr := 0x00#8, lastOp := 0x55#8 }, result := BitVec.ofNat 32 p }

/-! ## The pipeline -/

/-- R160, R161: PHY_ENCODE gives what the primitive commands in its rule's order (R194) give, run one after another as the
host would run them; besides, it writes OUT_INFO and sets OUT_VALID. Its two errors, in order, also clear F0. -/
def Obligations.PhyEncodeEqualsPrimitives : Prop :=
  ∀ (s : State) (mlen : BitVec 9) (pat : BitVec 3) (mmode : BitVec 2),
    (¬RegionOk s → exec (.phyEncode mlen pat mmode) s = .next { s.failed 0x60#8 1#8 with f0 := 0 }) ∧
    (RegionOk s → 255 < mlen.toNat →
      exec (.phyEncode mlen pat mmode) s = .next { s.failed 0x60#8 2#8 with f0 := 0 }) ∧
    (RegionOk s → mlen.toNat ≤ 255 →
      ∃ t, runCommands (telegramPrimitives mlen pat mmode (if mlen.toNat < 20 then 24 else mlen.toNat + 4)) s
          = .next t ∧
        exec (.phyEncode mlen pat mmode) s = .next { t with
          status := { lastErr := 0x00#8, lastOp := 0x60#8 }, outInfo := { pattern := pat, sync := false },
          events := { s.events with outValid := true } })

/-- R160, R163: after PHY_ENCODE: F0 and RESULT are equal and not 0, NUM_BURSTS is the burst count, every data burst
has its head bit 1 and cursor 24, the last has TRB 0; records from NUM_BURSTS on, and every byte outside
PHYBUF[0..nb-1], are unchanged. -/
def Obligations.PhyEncodeOutput : Prop :=
  ∀ (s : State) (mlen : BitVec 9) (pat : BitVec 3) (mmode : BitVec 2), RegionOk s → mlen.toNat ≤ 255 →
    let nb := if mlen.toNat < 20 then 24 else mlen.toNat + 4
    ∃ t, exec (.phyEncode mlen pat mmode) s = .next t ∧
      t = { s with
        status := { lastErr := 0x00#8, lastOp := 0x60#8 }, result := t.f0, f0 := t.f0,
        events := { s.events with outValid := true }, outInfo := { pattern := pat, sync := false },
        numBursts := BitVec.ofNat 9 nb, crcHdr := t.crcHdr, crcPay := t.crcPay, tsmaLfsr := t.tsmaLfsr,
        whitenLfsr := t.whitenLfsr, convSr := t.convSr, mem := t.mem, bursts := t.bursts } ∧
      t.f0 ≠ 0 ∧
      (∀ r < nb, burstBit (t.burst r).bits 0 = true ∧ (t.burst r).cursor = 24#5) ∧
      (t.burst (nb - 1)).trb = 0 ∧ (∀ r, nb ≤ r → t.burst r = s.burst r) ∧
      ∀ a, ¬(0x0400 ≤ a ∧ a < 0x0400 + nb) → t.mem.read a = s.mem.read a

/-- R162: SEND gives what MAC_ENCODE, PHY_ENCODE with the computed pattern and MMODE 0, and SYNC_ENCODE when SYNC_EN is
set, give one after another; the pattern is 6 for a priority telegram, else the rotation by the EPC before the
increment. Its errors, in order, also clear F0. -/
def Obligations.SendEqualsItsParts : Prop :=
  ∀ (s : State) (len : BitVec 9) (prio : BitVec 1) (mpfv : Byte),
    let mpf : BitVec 1 := if mpfv = 0#8 then 0#1 else 1#1
    let m := mpduBytesNeeded s len.toNat (mpfv != 0#8)
    let pat : BitVec 3 := if prio = 1#1 then 6#3 else
      BitVec.ofNat 3 ([0, 1, 2, 3, 0, 1, 2, 3, 4, 0, 1, 2, 3, 4, 5].getD (s.epc.toNat % 2 ^ 24 % 15) 0)
    (¬Provisioned s ∨ ¬RegionOk s → exec (.send len prio mpfv) s = .next { s.failed 0x61#8 1#8 with f0 := 0 }) ∧
    (Provisioned s → RegionOk s → 255 < m →
      exec (.send len prio mpfv) s = .next { s.failed 0x61#8 2#8 with f0 := 0 }) ∧
    (Provisioned s → RegionOk s → m ≤ 255 →
      ∃ a b c, exec (.macEncode len mpf mpfv) s = .next a ∧ exec (.phyEncode (BitVec.ofNat 9 m) pat 0) a = .next b ∧
        (s.ctrl.syncEn = true → exec (.syncEncode pat) b = .next c) ∧ (s.ctrl.syncEn = false → c = b) ∧
        exec (.send len prio mpfv) s = .next { c with
          status := { lastErr := 0x00#8, lastOp := 0x61#8 }, result := b.f0,
          outInfo := { pattern := pat, sync := s.ctrl.syncEn } })

/-- R163: the telegram the sink reads, as a function of State (log 9): record 259 first if OUT_INFO.SYNC, then records 0..NUM_BURSTS-1 in order, each
as its five bytes, its length (0 if punctured), its carrier and its delay. -/
def Obligations.TelegramContract : Prop :=
  ∀ s : State,
    s.telegram.length = s.outInfo.sync.toNat + s.numBursts.toNat ∧
    (s.outInfo.sync = true → s.telegram.head? = some (s.burst 259).toSink) ∧
    (∀ j < s.numBursts.toNat, s.telegram[s.outInfo.sync.toNat + j]? = some (s.burst j).toSink) ∧
    ∀ b : BurstRec, b.toSink =
      { bits := [b.bits.extractLsb' 32 8, b.bits.extractLsb' 24 8, b.bits.extractLsb' 16 8, b.bits.extractLsb' 8 8,
                 b.bits.extractLsb' 0 8],
        bitLength := if b.carrier = 0xFFFF#16 then 0 else 40, carrierOffset := b.carrier, tRb := b.trb }
end

