-- ==== Sys2Proof/Laws/Loops.lean ====
section
/-! SUPPORT. The pseudocode's loop (00_scope.md R13): how it unrolls, and its induction principle. -/

namespace Sys2Proof.Machine

variable {σ : Type}

/-- A loop whose end is not past its start runs no iteration. -/
theorem forRange_empty {a b : Nat} (h : b ≤ a) (f : Nat → σ → σ) (s : σ) : forRange a b f s = s := by
  simp [forRange, Nat.sub_eq_zero_of_le h]

@[simp] theorem forRange_self (a : Nat) (f : Nat → σ → σ) (s : σ) : forRange a a f s = s :=
  forRange_empty (Nat.le_refl a) f s

/-- The last iteration of a loop. -/
theorem forRange_succ {a b : Nat} (h : a ≤ b) (f : Nat → σ → σ) (s : σ) :
    forRange a (b + 1) f s = f b (forRange a b f s) := by
  have e : b + 1 - a = (b - a) + 1 := by omega
  simp only [forRange, e, List.range'_concat, List.foldl_append, List.foldl_cons, List.foldl_nil]
  congr 1
  omega

/-- The first iteration of a loop. -/
theorem forRange_cons {a b : Nat} (h : a < b) (f : Nat → σ → σ) (s : σ) :
    forRange a b f s = forRange (a + 1) b f (f a s) := by
  have e : b - a = (b - (a + 1)) + 1 := by omega
  simp only [forRange, e, List.range'_succ, List.foldl_cons]

/-- A loop runs in two parts. -/
theorem forRange_split {a b c : Nat} (hab : a ≤ b) (hbc : b ≤ c) (f : Nat → σ → σ) (s : σ) :
    forRange a c f s = forRange b c f (forRange a b f s) := by
  induction c, hbc using Nat.le_induction with
  | base => simp
  | succ c hbc ih => rw [forRange_succ (by omega), forRange_succ hbc, ih]

/-- The induction principle of a loop: what holds before it and is kept by each iteration, at its index, holds
after it. -/
theorem forRange_induct {a b : Nat} (hab : a ≤ b) (f : Nat → σ → σ) (s : σ) (P : Nat → σ → Prop)
    (start : P a s) (keep : ∀ i t, a ≤ i → i < b → P i t → P (i + 1) (f i t)) :
    P b (forRange a b f s) := by
  induction b, hab using Nat.le_induction with
  | base => simpa using start
  | succ b hab ih =>
    rw [forRange_succ hab]
    exact keep b _ hab (Nat.lt_succ_self b) (ih fun i t h1 h2 => keep i t h1 (by omega))

/-- An invariant that every iteration keeps, whatever its index. -/
theorem forRange_invariant (a b : Nat) (f : Nat → σ → σ) (s : σ) (P : σ → Prop)
    (start : P s) (keep : ∀ i t, a ≤ i → i < b → P t → P (f i t)) : P (forRange a b f s) := by
  rcases Nat.le_total a b with h | h
  · exact forRange_induct h f s (fun _ t => P t) start keep
  · rwa [forRange_empty h]

/-- Two loops whose bodies agree on the range agree. -/
theorem forRange_congr {a b : Nat} {f g : Nat → σ → σ} (s : σ)
    (h : ∀ i t, a ≤ i → i < b → f i t = g i t) : forRange a b f s = forRange a b g s := by
  rcases Nat.le_total a b with hab | hab
  · induction b, hab using Nat.le_induction with
    | base => simp
    | succ b hab ih =>
      rw [forRange_succ hab, forRange_succ hab, ih fun i t h1 h2 => h i t h1 (by omega),
        h b _ hab (Nat.lt_succ_self b)]
  · rw [forRange_empty hab, forRange_empty hab]

/-- A map that commutes with every iteration commutes with the loop. -/
theorem forRange_map {τ : Type} (a b : Nat) (f : Nat → σ → σ) (g : Nat → τ → τ) (φ : σ → τ) (s : σ)
    (h : ∀ i t, a ≤ i → i < b → φ (f i t) = g i (φ t)) : φ (forRange a b f s) = forRange a b g (φ s) := by
  rcases Nat.le_total a b with hab | hab
  · induction b, hab using Nat.le_induction with
    | base => simp
    | succ b hab ih =>
      rw [forRange_succ hab, forRange_succ hab, h b _ hab (Nat.lt_succ_self b),
        ih fun i t h1 h2 => h i t h1 (by omega)]
  · rw [forRange_empty hab, forRange_empty hab]

end Sys2Proof.Machine
end

