-- ==== Sys2Proof/Laws/Bursts.lean ====
section
/-! SUPPORT. Burst records and their bits: read after write, bit by bit. -/

namespace Sys2Proof.Machine

/-! ### Records -/

@[simp] theorem Bursts.rec_put_same (b : Bursts) {r : Nat} (x : BurstRec) (h : r < 260) :
    (b.put r x).rec r = x := by
  simp [Bursts.rec, Bursts.put, Vector.getD, h]

theorem Bursts.rec_put_other (b : Bursts) {r q : Nat} (x : BurstRec) (h : q ≠ r) :
    (b.put r x).rec q = b.rec q := by
  by_cases hq : q < 260
  · simp [Bursts.rec, Bursts.put, Vector.getD, hq, h.symm]
  · simp [Bursts.rec, Bursts.put, Vector.getD, hq]

/-- Two record files that agree record by record are equal. -/
theorem Bursts.ext_rec {b c : Bursts} (h : ∀ r, r < 260 → b.rec r = c.rec r) : b = c := by
  apply Vector.ext
  intro i hi
  simpa [Bursts.rec, Vector.getD, hi] using h i hi

@[simp] theorem setBurst_burst_same (s : State) {r : Nat} (x : BurstRec) (h : r < 260) :
    (s.setBurst r x).burst r = x := Bursts.rec_put_same _ _ h

theorem setBurst_burst_other (s : State) {r q : Nat} (x : BurstRec) (h : q ≠ r) :
    (s.setBurst r x).burst q = s.burst q := Bursts.rec_put_other _ _ h

/-! ### Bits -/

/-- BitWrite then BitRead (R14): the bit written reads as written, every other bit as before. -/
theorem burstBit_write (b : BurstBits) {i j : Nat} (v : Bool) (hi : i < 40) (hj : j < 40) :
    burstBit (burstBitWrite b i v) j = if j = i then v else burstBit b j := by
  have key : 39 - j = 39 - i ↔ j = i := by omega
  by_cases h : j = i
  · subst h
    cases v
    · simp [burstBit, burstBitWrite, hj]
    · simp [burstBit, burstBitWrite, hj]
      omega
  · have h1 : ¬(39 - j = 39 - i) := fun e => h (key.1 e)
    simp only [burstBit, burstBitWrite, hj, h, decide_true, Bool.true_and, if_false, BitVec.getLsbD_or,
      BitVec.getLsbD_and, BitVec.getLsbD_not, BitVec.getLsbD_shiftLeft, BitVec.getLsbD_setWidth,
      BitVec.getLsbD_ofBool]
    have h40 : 39 - j < 40 := by omega
    by_cases hlt : 39 - j < 39 - i
    · simp [h40, hlt]
    · have h2 : 39 - j - (39 - i) ≠ 0 := by omega
      simp [h40, hlt, h2, BitVec.getLsbD_one]

/-- Two burst streams that agree bit by bit are equal. -/
theorem burstBits_ext {b c : BurstBits} (h : ∀ i, i < 40 → burstBit b i = burstBit c i) : b = c := by
  apply BitVec.eq_of_getLsbD_eq
  intro k hk
  have := h (39 - k) (by omega)
  have e : 39 - (39 - k) = k := by omega
  simpa [burstBit, e, show 39 - k < 40 by omega] using this

theorem burstBit_ge (b : BurstBits) {i : Nat} (h : 40 ≤ i) : burstBit b i = false := by
  simp [burstBit, Nat.not_lt.2 h]

/-- The stream bits of ADD_MIDAMBLE (R123). -/
theorem burstBit_withMidamble (r : Nat) (b : BurstBits) {i : Nat} (hi : i < 40) :
    burstBit (withMidamble r b) i =
      if 14 ≤ i ∧ i < 26 then (midamble r).getLsbD (25 - i) else burstBit b i := by
  have key : ∀ n, n ≤ 12 → burstBit (forRange 0 n
      (fun j t => burstBitWrite t (12 + j + headBits) ((midamble r).getLsbD (11 - j))) b) i =
      if 14 ≤ i ∧ i < 14 + n then (midamble r).getLsbD (25 - i) else burstBit b i := by
    intro n hn
    refine forRange_induct (Nat.zero_le n) _ b
      (fun n t => burstBit t i = if 14 ≤ i ∧ i < 14 + n then (midamble r).getLsbD (25 - i) else burstBit b i)
      (by rw [if_neg (by omega)]) ?_
    intro j t _ hj ih
    simp only [headBits]
    rw [burstBit_write t _ (by omega) hi, ih]
    by_cases h : i = 12 + j + 2
    · rw [if_pos h, if_pos (by omega)]
      congr 1
      omega
    · rw [if_neg h]
      by_cases h2 : 14 ≤ i ∧ i < 14 + j
      · rw [if_pos h2, if_pos (by omega)]
      · rw [if_neg h2, if_neg (by omega)]
  exact key 12 (Nat.le_refl 12)

end Sys2Proof.Machine
end

