-- ==== Sys2Proof/Laws/Memory.lean ====
section
/-! SUPPORT. The byte memory: read after write, the canonical form, and which addresses a write can list. None of the
reading laws needs the canonical form. -/

namespace Sys2Proof.Machine

theorem Memory.read_filter_ne (m : Memory) {a b : Nat} (h : b ≠ a) :
    Memory.read (m.filter fun c => c.1 != a) b = m.read b := by
  induction m with
  | nil => rfl
  | cons c m ih =>
    by_cases hc : c.1 = a
    · have hb : c.1 ≠ b := fun e => h (e ▸ hc)
      rw [List.filter_cons_of_neg (by simp [hc]), ih, Memory.read, if_neg hb]
    · simp [hc, Memory.read, ih]

theorem Memory.read_filter_eq (m : Memory) (a : Nat) :
    Memory.read (m.filter fun c => c.1 != a) a = Memory.unlisted := by
  induction m with
  | nil => rfl
  | cons c m ih =>
    by_cases hc : c.1 = a
    · simp [hc, ih]
    · simp [hc, Memory.read, ih]

theorem Memory.read_insert_eq (m : Memory) (a : Nat) (v : Byte) (h : ∀ c ∈ m, c.1 ≠ a) :
    Memory.read (Memory.insert a v m) a = v := by
  induction m with
  | nil => simp [Memory.insert, Memory.read]
  | cons c m ih =>
    have hc : c.1 ≠ a := h c (by simp)
    unfold Memory.insert
    split
    · simp [Memory.read]
    · simp [Memory.read, hc, ih fun d hd => h d (by simp [hd])]

theorem Memory.read_insert_ne (m : Memory) {a b : Nat} (v : Byte) (h : b ≠ a) :
    Memory.read (Memory.insert a v m) b = m.read b := by
  induction m with
  | nil => simp [Memory.insert, Memory.read, h.symm]
  | cons c m ih =>
    unfold Memory.insert
    split
    · simp [Memory.read, h.symm]
    · simp [Memory.read, ih]

/-- A read of the address just written gives the value written. -/
@[simp] theorem Memory.read_write_same (m : Memory) (a : Nat) (v : Byte) : (m.write a v).read a = v := by
  unfold Memory.write
  split
  · rename_i h
    rw [Memory.read_filter_eq, h]
  · exact Memory.read_insert_eq _ _ _ (by simp)

/-- A write leaves every other address alone. -/
theorem Memory.read_write_other (m : Memory) {a b : Nat} (v : Byte) (h : b ≠ a) :
    (m.write a v).read b = m.read b := by
  unfold Memory.write
  split
  · exact Memory.read_filter_ne m h
  · rw [Memory.read_insert_ne _ _ h, Memory.read_filter_ne m h]

theorem Memory.mem_insert {m : Memory} {a : Nat} {v : Byte} {c : Host.Cell} (h : c ∈ Memory.insert a v m) :
    c = (a, v) ∨ c ∈ m := by
  induction m with
  | nil => simpa [Memory.insert] using h
  | cons d m ih =>
    unfold Memory.insert at h
    split at h
    · simpa using h
    · rcases List.mem_cons.1 h with rfl | h
      · simp
      · rcases ih h with h | h <;> simp [h]

/-- The cells a write can leave: the one written, or one listed before. -/
theorem Memory.mem_write {m : Memory} {a : Nat} {v : Byte} {c : Host.Cell} (h : c ∈ m.write a v) :
    c = (a, v) ∨ c ∈ m := by
  unfold Memory.write at h
  split at h
  · exact .inr (List.mem_filter.1 h).1
  · rcases Memory.mem_insert h with h | h
    · exact .inl h
    · exact .inr (List.mem_filter.1 h).1

theorem Memory.insert_pairwise {m : Memory} {a : Nat} {v : Byte} (h : m.Pairwise fun c d => c.1 < d.1)
    (hne : ∀ c ∈ m, c.1 ≠ a) : (Memory.insert a v m).Pairwise fun c d => c.1 < d.1 := by
  induction m with
  | nil => simp [Memory.insert]
  | cons c m ih =>
    have hc : c.1 ≠ a := hne c (by simp)
    obtain ⟨hall, hm⟩ := List.pairwise_cons.1 h
    unfold Memory.insert
    split
    · rename_i hlt
      refine List.pairwise_cons.2 ⟨fun d hd => ?_, h⟩
      rcases List.mem_cons.1 hd with rfl | hd
      · exact hlt
      · exact Nat.lt_trans hlt (hall d hd)
    · refine List.pairwise_cons.2 ⟨fun d hd => ?_, ih hm fun d hd => hne d (by simp [hd])⟩
      rcases Memory.mem_insert hd with rfl | hd
      · show c.1 < a
        omega
      · exact hall d hd

/-- A write keeps the canonical form. -/
theorem Memory.wf_write {m : Memory} (h : m.wf) (a : Nat) (v : Byte) : (m.write a v).wf := by
  obtain ⟨hp, hz⟩ := h
  have hf : (m.filter fun c => c.1 != a).Pairwise fun c d => c.1 < d.1 := hp.filter _
  refine ⟨?_, fun c hc => ?_⟩
  · unfold Memory.write
    split
    · exact hf
    · exact Memory.insert_pairwise hf (by simp)
  · unfold Memory.write at hc
    split at hc
    · exact hz c (List.mem_filter.1 hc).1
    · rename_i hv
      rcases Memory.mem_insert hc with rfl | hc
      · exact hv
      · exact hz c (List.mem_filter.1 hc).1

/-- Storing consecutive bytes keeps the canonical form. -/
theorem Memory.wf_writeList {m : Memory} (h : m.wf) (a : Nat) (bs : List Byte) : (m.writeList a bs).wf := by
  induction bs generalizing m a with
  | nil => exact h
  | cons b bs ih => exact ih (Memory.wf_write h a b) (a + 1)

/-- A byte outside the stored ones reads as before. -/
theorem Memory.read_writeList_outside (m : Memory) (a : Nat) (bs : List Byte) {x : Nat}
    (h : ¬(a ≤ x ∧ x < a + bs.length)) : (m.writeList a bs).read x = m.read x := by
  induction bs generalizing m a with
  | nil => rfl
  | cons b bs ih =>
    simp only [List.length_cons] at h
    rw [Memory.writeList, ih _ _ (by omega), Memory.read_write_other m b (by omega)]

/-- A stored byte reads as the list's. -/
theorem Memory.read_writeList_inside (m : Memory) (a : Nat) (bs : List Byte) {i : Nat} (h : i < bs.length) :
    (m.writeList a bs).read (a + i) = bs[i] := by
  induction bs generalizing m a i with
  | nil => simp at h
  | cons b bs ih =>
    cases i with
    | zero => rw [Memory.writeList, Memory.read_writeList_outside _ _ _ (by omega)]; simp
    | succ i =>
      have := ih (m.write a b) (a + 1) (i := i) (by simpa using h)
      rw [Memory.writeList, show a + (i + 1) = a + 1 + i by omega, this]
      simp

/-- The cells storing consecutive bytes can leave: at a stored address, or listed before. -/
theorem Memory.mem_writeList {m : Memory} {a : Nat} {bs : List Byte} {c : Host.Cell} (h : c ∈ m.writeList a bs) :
    (a ≤ c.1 ∧ c.1 < a + bs.length) ∨ c ∈ m := by
  induction bs generalizing m a with
  | nil => exact .inr h
  | cons b bs ih =>
    simp only [List.length_cons]
    rcases ih h with h | h
    · exact .inl ⟨by omega, by omega⟩
    · rcases Memory.mem_write h with rfl | h
      · exact .inl ⟨Nat.le_refl a, by show a < _; omega⟩
      · exact .inr h

/-! ### The same through State -/

/-- The reset state's memory is canonical. -/
theorem reset_mem_wf : State.reset.mem.wf := ⟨List.Pairwise.nil, by simp [State.reset]⟩

theorem wf_setByte {s : State} (h : s.mem.wf) (g : ByteRegion) (i : Nat) (v : Byte) : (s.setByte g i v).mem.wf :=
  Memory.wf_write h _ v

theorem wf_setBytes {s : State} (h : s.mem.wf) (g : ByteRegion) (a : Nat) (bs : List Byte) :
    (s.setBytes g a bs).mem.wf :=
  Memory.wf_writeList h _ bs

theorem wf_setBlock {s : State} (h : s.mem.wf) (g : ByteRegion) (x : Block) : (s.setBlock g x).mem.wf :=
  wf_setBytes h g 0 _

/-- Every byte outside a store of consecutive bytes reads as before. -/
theorem setBytes_read_outside (s : State) (g : ByteRegion) (a : Nat) (bs : List Byte) {x : Nat}
    (h : ¬(g.base + a ≤ x ∧ x < g.base + a + bs.length)) : (s.setBytes g a bs).mem.read x = s.mem.read x :=
  Memory.read_writeList_outside _ _ _ h

/-- A byte of a store of consecutive bytes reads as stored. -/
theorem setBytes_byte_inside (s : State) (g : ByteRegion) (a : Nat) (bs : List Byte) {i : Nat}
    (h : i < bs.length) : (s.setBytes g a bs).byte g (a + i) = bs[i] := by
  unfold State.byte
  rw [← Nat.add_assoc]
  exact Memory.read_writeList_inside _ _ _ h

@[simp] theorem bytes_length (s : State) (g : ByteRegion) (a n : Nat) : (s.bytes g a n).length = n := by
  simp [State.bytes]

@[simp] theorem bytes_getElem (s : State) (g : ByteRegion) (a n i : Nat) (h : i < (s.bytes g a n).length) :
    (s.bytes g a n)[i] = s.byte g (a + i) := by
  simp [State.bytes]

@[simp] theorem blockBytes_length (x : Block) : (blockBytes x).length = 16 := by simp [blockBytes]

@[simp] theorem blockBytes_getElem (x : Block) (i : Nat) (h : i < (blockBytes x).length) :
    (blockBytes x)[i] = blockByte x i := by
  simp [blockBytes]

@[simp] theorem bytesBE_length {w : Nat} (n : Nat) (x : BitVec w) : (bytesBE n x).length = n := by
  simp [bytesBE]

/-- A region written from a block reads as its bytes. -/
theorem setBlock_byte (s : State) (g : ByteRegion) (x : Block) {i : Nat} (h : i < 16) :
    (s.setBlock g x).byte g i = blockByte x i := by
  have := setBytes_byte_inside s g 0 (blockBytes x) (i := i) (by simpa using h)
  simpa [State.setBlock] using this

/-- Every byte outside a region written from a block reads as before. -/
theorem setBlock_read_outside (s : State) (g : ByteRegion) (x : Block) {a : Nat}
    (h : ¬(g.base ≤ a ∧ a < g.base + 16)) : (s.setBlock g x).mem.read a = s.mem.read a :=
  setBytes_read_outside s g 0 (blockBytes x) (by simpa using h)

end Sys2Proof.Machine
end

