-- ==== Sys2Proof/Laws/Bodies.lean ====
section
/-! SUPPORT. What the body of each command writes: its frame, the lengths and bytes of what it stores, and the records
its loops touch. -/

namespace Sys2Proof.Machine

/-! ### Frames: the fields a body may change, all others being the state's own -/

theorem aesBlockBody_frame (s : State) : (aesBlockBody s).2 = { s with mem := (aesBlockBody s).2.mem } := rfl

theorem writeSubkeys_frame (s : State) : writeSubkeys s = { s with mem := (writeSubkeys s).mem } := rfl

theorem cmacBody_frame (start len : Nat) (ivp : Bool) (s : State) :
    (cmacBody start len ivp s).2 = { s with mem := (cmacBody start len ivp s).2.mem } := by
  unfold cmacBody
  generalize cmac (s.block .key) (cmacMessage start len ivp s) = x
  exact writeSubkeys_frame _

theorem ctrCryptBody_frame (start len : Nat) (s : State) :
    (ctrCryptBody start len s).2 = { s with mem := (ctrCryptBody start len s).2.mem } := rfl

/-- MAC_ENCODE: the counter's step, MPDU_LEN and bytes of memory (43_mac.md R134). -/
theorem macEncodeBody_frame (len : Nat) (mpf : Bool) (mpfv : Byte) (s : State) :
    (macEncodeBody len mpf mpfv s).2 =
      { epcIncrement s with
        mpduLen := BitVec.ofNat 9 (mpduLength s len mpf), mem := (macEncodeBody len mpf mpfv s).2.mem } := by
  unfold macEncodeBody
  generalize mpduBytes s len mpf mpfv = bs
  generalize mpduTag s len mpf mpfv = x
  simp only
  generalize hw : writeSubkeys ((s.setBytes .mpdu 0 bs).setBlock .tag x) = w
  have : w = { s with mem := w.mem } := by
    rw [← hw]
    exact writeSubkeys_frame _
  rw [this]
  rfl

theorem phyAssembleBody_frame (m : Nat) (mmode : BitVec 2) (s : State) :
    (phyAssembleBody m mmode s).2 =
      { s with
        numBursts := BitVec.ofNat 9 (numBurstsOf m), crcHdr := (phyAssembleBody m mmode s).2.crcHdr,
        crcPay := (phyAssembleBody m mmode s).2.crcPay, mem := (phyAssembleBody m mmode s).2.mem } := by
  simp only [phyAssembleBody, State.setBytes]

theorem whitenBody_frame (n : Nat) (s : State) :
    (whitenBody n s).2 =
      { s with whitenLfsr := (whitenBody n s).2.whitenLfsr, mem := (whitenBody n s).2.mem } := by
  simp only [whitenBody, State.setBytes, State.setByte]

theorem burstClearBody_frame (n : Nat) (s : State) :
    (burstClearBody n s).2 = { s with bursts := (burstClearBody n s).2.bursts } := rfl

theorem convInterleaveBody_frame (n : Nat) (s : State) :
    (convInterleaveBody n s).2 =
      { s with convSr := (convInterleaveBody n s).2.convSr, bursts := (convInterleaveBody n s).2.bursts } := rfl

theorem tsmaAssignBody_frame (nb : Nat) (pat : BitVec 3) (s : State) :
    (tsmaAssignBody nb pat s).2 =
      { s with
        tsmaLfsr := (tsmaAssignBody nb pat s).2.tsmaLfsr, bursts := (tsmaAssignBody nb pat s).2.bursts } := by
  simp only [tsmaAssignBody]

theorem setBurst_frame (s : State) (r : Nat) (x : BurstRec) :
    s.setBurst r x = { s with bursts := (s.setBurst r x).bursts } := rfl

theorem syncEncodeBody_frame (pat : BitVec 3) (s : State) :
    (syncEncodeBody pat s).2 = { s with bursts := (syncEncodeBody pat s).2.bursts } := by
  unfold syncEncodeBody
  exact setBurst_frame _ _ _

/-- The loop over the records is a loop over the record file. -/
theorem finishBursts_eq (nb : Nat) (h : nb ≤ 260) (s : State) :
    finishBursts nb s =
      { s with
        bursts := forRange 0 nb
          (fun r b => Bursts.put b r { b.rec r with bits := diffMskBits (withMidamble r (b.rec r).bits) }) s.bursts } := by
  unfold finishBursts
  induction nb with
  | zero => rfl
  | succ nb ih =>
    rw [forRange_succ (Nat.zero_le nb), forRange_succ (Nat.zero_le nb), ih (by omega)]
    simp only [addMidambleBody, diffMskBody, State.setBurst, State.burst,
      Bursts.rec_put_same _ _ (show nb < 260 by omega)]
    congr 1
    refine Bursts.ext_rec fun q _ => ?_
    by_cases hq : q = nb
    · subst hq
      simp [Bursts.rec_put_same _ _ (show q < 260 by omega)]
    · simp [Bursts.rec_put_other _ _ hq]

theorem finishBursts_frame (nb : Nat) (h : nb ≤ 260) (s : State) :
    finishBursts nb s = { s with bursts := (finishBursts nb s).bursts } := by
  rw [finishBursts_eq nb h s]

/-! ### Loops over records -/

/-- A loop that rewrites records 0, 1, …, n-1, each from its own old value. -/
theorem rec_forRange_put (n : Nat) (hn : n ≤ 260) (f : Nat → BurstRec → BurstRec) (b : Bursts) (q : Nat) :
    Bursts.rec (forRange 0 n (fun r b => Bursts.put b r (f r (b.rec r))) b) q =
      if q < n then f q (b.rec q) else b.rec q := by
  refine forRange_induct (Nat.zero_le n) _ b
    (fun k t => Bursts.rec t q = if q < k then f q (b.rec q) else b.rec q) (by simp) ?_
  intro i t _ hi ih
  by_cases h : q = i
  · subst h
    rw [Bursts.rec_put_same _ _ (by omega), ih, if_neg (Nat.lt_irrefl q), if_pos (Nat.lt_succ_self q)]
  · rw [Bursts.rec_put_other _ _ h, ih]
    by_cases h2 : q < i
    · rw [if_pos h2, if_pos (by omega)]
    · rw [if_neg h2, if_neg (by omega)]

/-- BURST_CLEAR's records (42_radioburst.md R120). -/
theorem burstClearBody_burst (n : Nat) (hn : n ≤ 260) (s : State) (q : Nat) :
    (burstClearBody n s).2.burst q = if q < n then BurstRec.cleared else s.burst q :=
  rec_forRange_put n hn (fun _ _ => BurstRec.cleared) s.bursts q

/-- The records after ADD_MIDAMBLE and DIFF_MSK on each of 0..nb-1. -/
theorem finishBursts_burst (nb : Nat) (hn : nb ≤ 260) (s : State) (q : Nat) :
    (finishBursts nb s).burst q =
      if q < nb then { s.burst q with bits := diffMskBits (withMidamble q (s.burst q).bits) } else s.burst q := by
  rw [finishBursts_eq nb hn s]
  exact rec_forRange_put nb hn (fun r x => { x with bits := diffMskBits (withMidamble r x.bits) }) s.bursts q

/-- TSMA_ASSIGN's core records (45_tsma_sync.md R150). -/
theorem tsmaCore_rec (upg : BitVec 2) (p : BitVec 3) (bc : BitVec 16) (b : Bursts) (q : Nat) :
    (tsmaCore upg p bc b).rec q =
      if q < 24 then { b.rec q with
        carrier := BitVec.ofNat 16 (tsmaCRb upg p q * bc.toNat), trb := Config.tsmaTRb upg p q } else b.rec q :=
  rec_forRange_put 24 (by omega)
    (fun i x => { x with carrier := BitVec.ofNat 16 (tsmaCRb upg p i * bc.toNat), trb := Config.tsmaTRb upg p i }) b q

/-! ### Lengths and bytes -/

theorem blockBytes_take_length (x : Block) : ((blockBytes x).take 4).length = 4 := by simp

theorem keystream_length (s : State) (n : Nat) : (keystream s n).length = 16 * ceilDiv n 16 := by
  unfold keystream
  induction ceilDiv n 16 with
  | zero => rfl
  | succ k ih => rw [List.range_succ, List.flatMap_append, List.length_append, ih]; simp; omega

/-- The keystream covers its bytes. -/
theorem keystream_covers (s : State) (n : Nat) : n ≤ (keystream s n).length := by
  rw [keystream_length]
  unfold ceilDiv
  omega

@[simp] theorem ctrXor_length (s : State) (bs : List Byte) : (ctrXor s bs).length = bs.length := by
  simp [ctrXor, List.length_zipWith, keystream_covers]

theorem macAddr_length (s : State) : (macAddr s).length = if s.ctrl.addrLong then 8 else 2 := by
  unfold macAddr shortAddr
  split
  · simp
  · split <;> simp

theorem mpduPlain_length (s : State) (len : Nat) (mpf : Bool) (mpfv : Byte) :
    (mpduPlain s len mpf mpfv).length = (if mpf then 1 else 0) + len := by
  unfold mpduPlain
  split <;> simp [Nat.add_comm]

theorem mpduPrefix_length (s : State) (mpf : Bool) :
    (mpduPrefix s mpf).length = if s.ctrl.addrLong then 12 else 6 := by
  simp only [mpduPrefix, List.length_cons, List.length_append, macAddr_length, bytesBE_length]
  split <;> rfl

/-- The MPDU is as long as MpduLength says (43_mac.md R132). -/
theorem mpduBytes_length (s : State) (len : Nat) (mpf : Bool) (mpfv : Byte) :
    (mpduBytes s len mpf mpfv).length = mpduLength s len mpf := by
  simp only [mpduBytes, mpduUnsigned, List.length_append, mpduPrefix_length, ctrXor_length, mpduPlain_length,
    blockBytes_take_length, mpduLength]
  split <;> split <;> omega

/-- PHYBUF[2..] is two bytes short of the burst count (44_phy_coding.md R140). -/
theorem phyBody_length (m : Nat) (h : m ≤ 255) (mmode : BitVec 2) {mpdu : List Byte} (hl : mpdu.length = m) :
    (phyBody m mmode mpdu).length + 2 = numBurstsOf m := by
  simp only [phyBody, List.length_append, List.length_cons, List.length_replicate, List.length_nil, hl, numBurstsOf]
  split <;> [omega; split <;> omega]

/-- The burst count is between 24 and 259 (44_phy_coding.md R136). -/
theorem numBurstsOf_bounds {m : Nat} (h : m ≤ 255) : 24 ≤ numBurstsOf m ∧ numBurstsOf m ≤ 259 := by
  unfold numBurstsOf
  split <;> [omega; split <;> omega]

@[simp] theorem whitenBytes_length (reg : BitVec 16) (bs : List Byte) : (whitenBytes reg bs).1.length = bs.length := by
  induction bs generalizing reg with
  | nil => rfl
  | cons b bs ih => simp [whitenBytes, ih]

theorem whitenStep8_eq (reg : BitVec 16) : whitenStep8 reg = whitenStep^[8] reg := rfl

/-- The register the whitener leaves (44_phy_coding.md R141). -/
theorem whitenBytes_register (reg : BitVec 16) (bs : List Byte) :
    (whitenBytes reg bs).2 = whitenStep^[8 * bs.length] reg := by
  induction bs generalizing reg with
  | nil => rfl
  | cons b bs ih =>
    simp only [whitenBytes, ih, List.length_cons]
    rw [Nat.mul_succ, Function.iterate_add_apply, whitenStep8_eq]

/-- The bytes the whitener gives (44_phy_coding.md R141). -/
theorem whitenBytes_getElem (reg : BitVec 16) (bs : List Byte) (j : Nat) (h : j < bs.length) :
    (whitenBytes reg bs).1[j]'(by simpa using h) =
      bs[j] ^^^ (whitenStep^[8 * (j + 1)] reg).setWidth 8 := by
  induction bs generalizing reg j with
  | nil => simp at h
  | cons b bs ih =>
    cases j with
    | zero => simp [whitenBytes, whitenStep8_eq]
    | succ j =>
      have hj : j < bs.length := by simpa using h
      have := ih (whitenStep8 reg) j hj
      simp only [whitenBytes, List.getElem_cons_succ]
      rw [this, whitenStep8_eq, ← Function.iterate_add_apply]
      congr 3

end Sys2Proof.Machine
end

