-- ==== Sys2Proof/Laws/State.lean ====
section
/-! SUPPORT. One lemma per field per update of State, each true by rfl (writeSubkeys: by the lemmas of setBlock), so that no proof unfolds a record update. -/

namespace Sys2Proof.Machine

/-! ### setLastOp (30_encoding.md R96) -/

@[simp] theorem setLastOp_status (s : State) (op : Byte) :
    (s.setLastOp op).status = { s.status with lastOp := op } := rfl
@[simp] theorem setLastOp_result (s : State) (op : Byte) : (s.setLastOp op).result = s.result := rfl
@[simp] theorem setLastOp_events (s : State) (op : Byte) : (s.setLastOp op).events = s.events := rfl
@[simp] theorem setLastOp_ctrl (s : State) (op : Byte) : (s.setLastOp op).ctrl = s.ctrl := rfl
@[simp] theorem setLastOp_shortAddrOvr (s : State) (op : Byte) : (s.setLastOp op).shortAddrOvr = s.shortAddrOvr := rfl
@[simp] theorem setLastOp_chanA (s : State) (op : Byte) : (s.setLastOp op).chanA = s.chanA := rfl
@[simp] theorem setLastOp_chanB (s : State) (op : Byte) : (s.setLastOp op).chanB = s.chanB := rfl
@[simp] theorem setLastOp_bC (s : State) (op : Byte) : (s.setLastOp op).bC = s.bC := rfl
@[simp] theorem setLastOp_bC0 (s : State) (op : Byte) : (s.setLastOp op).bC0 = s.bC0 := rfl
@[simp] theorem setLastOp_upg (s : State) (op : Byte) : (s.setLastOp op).upg = s.upg := rfl
@[simp] theorem setLastOp_nCo (s : State) (op : Byte) : (s.setLastOp op).nCo = s.nCo := rfl
@[simp] theorem setLastOp_epc (s : State) (op : Byte) : (s.setLastOp op).epc = s.epc := rfl
@[simp] theorem setLastOp_epcLoadval (s : State) (op : Byte) : (s.setLastOp op).epcLoadval = s.epcLoadval := rfl
@[simp] theorem setLastOp_epcStore (s : State) (op : Byte) : (s.setLastOp op).epcStore = s.epcStore := rfl
@[simp] theorem setLastOp_f0 (s : State) (op : Byte) : (s.setLastOp op).f0 = s.f0 := rfl
@[simp] theorem setLastOp_numBursts (s : State) (op : Byte) : (s.setLastOp op).numBursts = s.numBursts := rfl
@[simp] theorem setLastOp_mpduLen (s : State) (op : Byte) : (s.setLastOp op).mpduLen = s.mpduLen := rfl
@[simp] theorem setLastOp_crcHdr (s : State) (op : Byte) : (s.setLastOp op).crcHdr = s.crcHdr := rfl
@[simp] theorem setLastOp_crcPay (s : State) (op : Byte) : (s.setLastOp op).crcPay = s.crcPay := rfl
@[simp] theorem setLastOp_tsmaLfsr (s : State) (op : Byte) : (s.setLastOp op).tsmaLfsr = s.tsmaLfsr := rfl
@[simp] theorem setLastOp_whitenLfsr (s : State) (op : Byte) : (s.setLastOp op).whitenLfsr = s.whitenLfsr := rfl
@[simp] theorem setLastOp_convSr (s : State) (op : Byte) : (s.setLastOp op).convSr = s.convSr := rfl
@[simp] theorem setLastOp_outInfo (s : State) (op : Byte) : (s.setLastOp op).outInfo = s.outInfo := rfl
@[simp] theorem setLastOp_mem (s : State) (op : Byte) : (s.setLastOp op).mem = s.mem := rfl
@[simp] theorem setLastOp_bursts (s : State) (op : Byte) : (s.setLastOp op).bursts = s.bursts := rfl
@[simp] theorem setLastOp_hostQueue (s : State) (op : Byte) : (s.setLastOp op).hostQueue = s.hostQueue := rfl
@[simp] theorem setLastOp_busResponse (s : State) (op : Byte) : (s.setLastOp op).busResponse = s.busResponse := rfl

@[simp] theorem setLastOp_byte (s : State) (op : Byte) (g : ByteRegion) : (s.setLastOp op).byte g = s.byte g := rfl
@[simp] theorem setLastOp_bytes (s : State) (op : Byte) (g : ByteRegion) (a n : Nat) : (s.setLastOp op).bytes g a n = s.bytes g a n := rfl
@[simp] theorem setLastOp_block (s : State) (op : Byte) (g : ByteRegion) : (s.setLastOp op).block g = s.block g := rfl
@[simp] theorem setLastOp_burst (s : State) (op : Byte) (r : Nat) : (s.setLastOp op).burst r = s.burst r := rfl

/-! ### complete (30_encoding.md R97) -/

@[simp] theorem complete_status (s : State) (v : Word) :
    (s.complete v).status = { s.status with lastErr := 0#8 } := rfl
@[simp] theorem complete_result (s : State) (v : Word) : (s.complete v).result = v := rfl
@[simp] theorem complete_events (s : State) (v : Word) : (s.complete v).events = s.events := rfl
@[simp] theorem complete_ctrl (s : State) (v : Word) : (s.complete v).ctrl = s.ctrl := rfl
@[simp] theorem complete_shortAddrOvr (s : State) (v : Word) : (s.complete v).shortAddrOvr = s.shortAddrOvr := rfl
@[simp] theorem complete_chanA (s : State) (v : Word) : (s.complete v).chanA = s.chanA := rfl
@[simp] theorem complete_chanB (s : State) (v : Word) : (s.complete v).chanB = s.chanB := rfl
@[simp] theorem complete_bC (s : State) (v : Word) : (s.complete v).bC = s.bC := rfl
@[simp] theorem complete_bC0 (s : State) (v : Word) : (s.complete v).bC0 = s.bC0 := rfl
@[simp] theorem complete_upg (s : State) (v : Word) : (s.complete v).upg = s.upg := rfl
@[simp] theorem complete_nCo (s : State) (v : Word) : (s.complete v).nCo = s.nCo := rfl
@[simp] theorem complete_epc (s : State) (v : Word) : (s.complete v).epc = s.epc := rfl
@[simp] theorem complete_epcLoadval (s : State) (v : Word) : (s.complete v).epcLoadval = s.epcLoadval := rfl
@[simp] theorem complete_epcStore (s : State) (v : Word) : (s.complete v).epcStore = s.epcStore := rfl
@[simp] theorem complete_f0 (s : State) (v : Word) : (s.complete v).f0 = s.f0 := rfl
@[simp] theorem complete_numBursts (s : State) (v : Word) : (s.complete v).numBursts = s.numBursts := rfl
@[simp] theorem complete_mpduLen (s : State) (v : Word) : (s.complete v).mpduLen = s.mpduLen := rfl
@[simp] theorem complete_crcHdr (s : State) (v : Word) : (s.complete v).crcHdr = s.crcHdr := rfl
@[simp] theorem complete_crcPay (s : State) (v : Word) : (s.complete v).crcPay = s.crcPay := rfl
@[simp] theorem complete_tsmaLfsr (s : State) (v : Word) : (s.complete v).tsmaLfsr = s.tsmaLfsr := rfl
@[simp] theorem complete_whitenLfsr (s : State) (v : Word) : (s.complete v).whitenLfsr = s.whitenLfsr := rfl
@[simp] theorem complete_convSr (s : State) (v : Word) : (s.complete v).convSr = s.convSr := rfl
@[simp] theorem complete_outInfo (s : State) (v : Word) : (s.complete v).outInfo = s.outInfo := rfl
@[simp] theorem complete_mem (s : State) (v : Word) : (s.complete v).mem = s.mem := rfl
@[simp] theorem complete_bursts (s : State) (v : Word) : (s.complete v).bursts = s.bursts := rfl
@[simp] theorem complete_hostQueue (s : State) (v : Word) : (s.complete v).hostQueue = s.hostQueue := rfl
@[simp] theorem complete_busResponse (s : State) (v : Word) : (s.complete v).busResponse = s.busResponse := rfl

@[simp] theorem complete_byte (s : State) (v : Word) (g : ByteRegion) : (s.complete v).byte g = s.byte g := rfl
@[simp] theorem complete_bytes (s : State) (v : Word) (g : ByteRegion) (a n : Nat) : (s.complete v).bytes g a n = s.bytes g a n := rfl
@[simp] theorem complete_block (s : State) (v : Word) (g : ByteRegion) : (s.complete v).block g = s.block g := rfl
@[simp] theorem complete_burst (s : State) (v : Word) (r : Nat) : (s.complete v).burst r = s.burst r := rfl

/-! ### raiseError (60_exceptions.md R175) -/

@[simp] theorem raiseError_status (s : State) (c : ErrorCode) :
    (s.raiseError c).status = { s.status with lastErr := c.code } := rfl
@[simp] theorem raiseError_result (s : State) (c : ErrorCode) : (s.raiseError c).result = 0 := rfl
@[simp] theorem raiseError_events (s : State) (c : ErrorCode) : (s.raiseError c).events = s.events.setErr := rfl
@[simp] theorem raiseError_ctrl (s : State) (c : ErrorCode) : (s.raiseError c).ctrl = s.ctrl := rfl
@[simp] theorem raiseError_shortAddrOvr (s : State) (c : ErrorCode) :
    (s.raiseError c).shortAddrOvr = s.shortAddrOvr := rfl
@[simp] theorem raiseError_chanA (s : State) (c : ErrorCode) : (s.raiseError c).chanA = s.chanA := rfl
@[simp] theorem raiseError_chanB (s : State) (c : ErrorCode) : (s.raiseError c).chanB = s.chanB := rfl
@[simp] theorem raiseError_bC (s : State) (c : ErrorCode) : (s.raiseError c).bC = s.bC := rfl
@[simp] theorem raiseError_bC0 (s : State) (c : ErrorCode) : (s.raiseError c).bC0 = s.bC0 := rfl
@[simp] theorem raiseError_upg (s : State) (c : ErrorCode) : (s.raiseError c).upg = s.upg := rfl
@[simp] theorem raiseError_nCo (s : State) (c : ErrorCode) : (s.raiseError c).nCo = s.nCo := rfl
@[simp] theorem raiseError_epc (s : State) (c : ErrorCode) : (s.raiseError c).epc = s.epc := rfl
@[simp] theorem raiseError_epcLoadval (s : State) (c : ErrorCode) : (s.raiseError c).epcLoadval = s.epcLoadval := rfl
@[simp] theorem raiseError_epcStore (s : State) (c : ErrorCode) : (s.raiseError c).epcStore = s.epcStore := rfl
@[simp] theorem raiseError_f0 (s : State) (c : ErrorCode) : (s.raiseError c).f0 = s.f0 := rfl
@[simp] theorem raiseError_numBursts (s : State) (c : ErrorCode) : (s.raiseError c).numBursts = s.numBursts := rfl
@[simp] theorem raiseError_mpduLen (s : State) (c : ErrorCode) : (s.raiseError c).mpduLen = s.mpduLen := rfl
@[simp] theorem raiseError_crcHdr (s : State) (c : ErrorCode) : (s.raiseError c).crcHdr = s.crcHdr := rfl
@[simp] theorem raiseError_crcPay (s : State) (c : ErrorCode) : (s.raiseError c).crcPay = s.crcPay := rfl
@[simp] theorem raiseError_tsmaLfsr (s : State) (c : ErrorCode) : (s.raiseError c).tsmaLfsr = s.tsmaLfsr := rfl
@[simp] theorem raiseError_whitenLfsr (s : State) (c : ErrorCode) : (s.raiseError c).whitenLfsr = s.whitenLfsr := rfl
@[simp] theorem raiseError_convSr (s : State) (c : ErrorCode) : (s.raiseError c).convSr = s.convSr := rfl
@[simp] theorem raiseError_outInfo (s : State) (c : ErrorCode) : (s.raiseError c).outInfo = s.outInfo := rfl
@[simp] theorem raiseError_mem (s : State) (c : ErrorCode) : (s.raiseError c).mem = s.mem := rfl
@[simp] theorem raiseError_bursts (s : State) (c : ErrorCode) : (s.raiseError c).bursts = s.bursts := rfl
@[simp] theorem raiseError_hostQueue (s : State) (c : ErrorCode) : (s.raiseError c).hostQueue = s.hostQueue := rfl
@[simp] theorem raiseError_busResponse (s : State) (c : ErrorCode) :
    (s.raiseError c).busResponse = s.busResponse := rfl

@[simp] theorem raiseError_byte (s : State) (c : ErrorCode) (g : ByteRegion) : (s.raiseError c).byte g = s.byte g := rfl
@[simp] theorem raiseError_bytes (s : State) (c : ErrorCode) (g : ByteRegion) (a n : Nat) : (s.raiseError c).bytes g a n = s.bytes g a n := rfl
@[simp] theorem raiseError_block (s : State) (c : ErrorCode) (g : ByteRegion) : (s.raiseError c).block g = s.block g := rfl
@[simp] theorem raiseError_burst (s : State) (c : ErrorCode) (r : Nat) : (s.raiseError c).burst r = s.burst r := rfl

/-! ### clearF0 (46_pipeline.md R161) -/

@[simp] theorem clearF0_status (s : State) : (s.clearF0).status = s.status := rfl
@[simp] theorem clearF0_result (s : State) : (s.clearF0).result = s.result := rfl
@[simp] theorem clearF0_events (s : State) : (s.clearF0).events = s.events := rfl
@[simp] theorem clearF0_ctrl (s : State) : (s.clearF0).ctrl = s.ctrl := rfl
@[simp] theorem clearF0_shortAddrOvr (s : State) : (s.clearF0).shortAddrOvr = s.shortAddrOvr := rfl
@[simp] theorem clearF0_chanA (s : State) : (s.clearF0).chanA = s.chanA := rfl
@[simp] theorem clearF0_chanB (s : State) : (s.clearF0).chanB = s.chanB := rfl
@[simp] theorem clearF0_bC (s : State) : (s.clearF0).bC = s.bC := rfl
@[simp] theorem clearF0_bC0 (s : State) : (s.clearF0).bC0 = s.bC0 := rfl
@[simp] theorem clearF0_upg (s : State) : (s.clearF0).upg = s.upg := rfl
@[simp] theorem clearF0_nCo (s : State) : (s.clearF0).nCo = s.nCo := rfl
@[simp] theorem clearF0_epc (s : State) : (s.clearF0).epc = s.epc := rfl
@[simp] theorem clearF0_epcLoadval (s : State) : (s.clearF0).epcLoadval = s.epcLoadval := rfl
@[simp] theorem clearF0_epcStore (s : State) : (s.clearF0).epcStore = s.epcStore := rfl
@[simp] theorem clearF0_f0 (s : State) : (s.clearF0).f0 = 0 := rfl
@[simp] theorem clearF0_numBursts (s : State) : (s.clearF0).numBursts = s.numBursts := rfl
@[simp] theorem clearF0_mpduLen (s : State) : (s.clearF0).mpduLen = s.mpduLen := rfl
@[simp] theorem clearF0_crcHdr (s : State) : (s.clearF0).crcHdr = s.crcHdr := rfl
@[simp] theorem clearF0_crcPay (s : State) : (s.clearF0).crcPay = s.crcPay := rfl
@[simp] theorem clearF0_tsmaLfsr (s : State) : (s.clearF0).tsmaLfsr = s.tsmaLfsr := rfl
@[simp] theorem clearF0_whitenLfsr (s : State) : (s.clearF0).whitenLfsr = s.whitenLfsr := rfl
@[simp] theorem clearF0_convSr (s : State) : (s.clearF0).convSr = s.convSr := rfl
@[simp] theorem clearF0_outInfo (s : State) : (s.clearF0).outInfo = s.outInfo := rfl
@[simp] theorem clearF0_mem (s : State) : (s.clearF0).mem = s.mem := rfl
@[simp] theorem clearF0_bursts (s : State) : (s.clearF0).bursts = s.bursts := rfl
@[simp] theorem clearF0_hostQueue (s : State) : (s.clearF0).hostQueue = s.hostQueue := rfl
@[simp] theorem clearF0_busResponse (s : State) : (s.clearF0).busResponse = s.busResponse := rfl

@[simp] theorem clearF0_byte (s : State) (g : ByteRegion) : (s.clearF0).byte g = s.byte g := rfl
@[simp] theorem clearF0_bytes (s : State) (g : ByteRegion) (a n : Nat) : (s.clearF0).bytes g a n = s.bytes g a n := rfl
@[simp] theorem clearF0_block (s : State) (g : ByteRegion) : (s.clearF0).block g = s.block g := rfl
@[simp] theorem clearF0_burst (s : State) (r : Nat) : (s.clearF0).burst r = s.burst r := rfl

/-! ### setByte (00_scope.md R12) -/

@[simp] theorem setByte_status (s : State) (g : ByteRegion) (i : Nat) (v : Byte) :
    (s.setByte g i v).status = s.status := rfl
@[simp] theorem setByte_result (s : State) (g : ByteRegion) (i : Nat) (v : Byte) :
    (s.setByte g i v).result = s.result := rfl
@[simp] theorem setByte_events (s : State) (g : ByteRegion) (i : Nat) (v : Byte) :
    (s.setByte g i v).events = s.events := rfl
@[simp] theorem setByte_ctrl (s : State) (g : ByteRegion) (i : Nat) (v : Byte) :
    (s.setByte g i v).ctrl = s.ctrl := rfl
@[simp] theorem setByte_shortAddrOvr (s : State) (g : ByteRegion) (i : Nat) (v : Byte) :
    (s.setByte g i v).shortAddrOvr = s.shortAddrOvr := rfl
@[simp] theorem setByte_chanA (s : State) (g : ByteRegion) (i : Nat) (v : Byte) :
    (s.setByte g i v).chanA = s.chanA := rfl
@[simp] theorem setByte_chanB (s : State) (g : ByteRegion) (i : Nat) (v : Byte) :
    (s.setByte g i v).chanB = s.chanB := rfl
@[simp] theorem setByte_bC (s : State) (g : ByteRegion) (i : Nat) (v : Byte) : (s.setByte g i v).bC = s.bC := rfl
@[simp] theorem setByte_bC0 (s : State) (g : ByteRegion) (i : Nat) (v : Byte) : (s.setByte g i v).bC0 = s.bC0 := rfl
@[simp] theorem setByte_upg (s : State) (g : ByteRegion) (i : Nat) (v : Byte) : (s.setByte g i v).upg = s.upg := rfl
@[simp] theorem setByte_nCo (s : State) (g : ByteRegion) (i : Nat) (v : Byte) : (s.setByte g i v).nCo = s.nCo := rfl
@[simp] theorem setByte_epc (s : State) (g : ByteRegion) (i : Nat) (v : Byte) : (s.setByte g i v).epc = s.epc := rfl
@[simp] theorem setByte_epcLoadval (s : State) (g : ByteRegion) (i : Nat) (v : Byte) :
    (s.setByte g i v).epcLoadval = s.epcLoadval := rfl
@[simp] theorem setByte_epcStore (s : State) (g : ByteRegion) (i : Nat) (v : Byte) :
    (s.setByte g i v).epcStore = s.epcStore := rfl
@[simp] theorem setByte_f0 (s : State) (g : ByteRegion) (i : Nat) (v : Byte) : (s.setByte g i v).f0 = s.f0 := rfl
@[simp] theorem setByte_numBursts (s : State) (g : ByteRegion) (i : Nat) (v : Byte) :
    (s.setByte g i v).numBursts = s.numBursts := rfl
@[simp] theorem setByte_mpduLen (s : State) (g : ByteRegion) (i : Nat) (v : Byte) :
    (s.setByte g i v).mpduLen = s.mpduLen := rfl
@[simp] theorem setByte_crcHdr (s : State) (g : ByteRegion) (i : Nat) (v : Byte) :
    (s.setByte g i v).crcHdr = s.crcHdr := rfl
@[simp] theorem setByte_crcPay (s : State) (g : ByteRegion) (i : Nat) (v : Byte) :
    (s.setByte g i v).crcPay = s.crcPay := rfl
@[simp] theorem setByte_tsmaLfsr (s : State) (g : ByteRegion) (i : Nat) (v : Byte) :
    (s.setByte g i v).tsmaLfsr = s.tsmaLfsr := rfl
@[simp] theorem setByte_whitenLfsr (s : State) (g : ByteRegion) (i : Nat) (v : Byte) :
    (s.setByte g i v).whitenLfsr = s.whitenLfsr := rfl
@[simp] theorem setByte_convSr (s : State) (g : ByteRegion) (i : Nat) (v : Byte) :
    (s.setByte g i v).convSr = s.convSr := rfl
@[simp] theorem setByte_outInfo (s : State) (g : ByteRegion) (i : Nat) (v : Byte) :
    (s.setByte g i v).outInfo = s.outInfo := rfl
@[simp] theorem setByte_mem (s : State) (g : ByteRegion) (i : Nat) (v : Byte) :
    (s.setByte g i v).mem = s.mem.write (g.base + i) v := rfl
@[simp] theorem setByte_bursts (s : State) (g : ByteRegion) (i : Nat) (v : Byte) :
    (s.setByte g i v).bursts = s.bursts := rfl
@[simp] theorem setByte_hostQueue (s : State) (g : ByteRegion) (i : Nat) (v : Byte) :
    (s.setByte g i v).hostQueue = s.hostQueue := rfl
@[simp] theorem setByte_busResponse (s : State) (g : ByteRegion) (i : Nat) (v : Byte) :
    (s.setByte g i v).busResponse = s.busResponse := rfl

@[simp] theorem setByte_burst (s : State) (g : ByteRegion) (i : Nat) (v : Byte) (r : Nat) : (s.setByte g i v).burst r = s.burst r := rfl

/-! ### setBytes (00_scope.md R12) -/

@[simp] theorem setBytes_status (s : State) (g : ByteRegion) (a : Nat) (bs : List Byte) :
    (s.setBytes g a bs).status = s.status := rfl
@[simp] theorem setBytes_result (s : State) (g : ByteRegion) (a : Nat) (bs : List Byte) :
    (s.setBytes g a bs).result = s.result := rfl
@[simp] theorem setBytes_events (s : State) (g : ByteRegion) (a : Nat) (bs : List Byte) :
    (s.setBytes g a bs).events = s.events := rfl
@[simp] theorem setBytes_ctrl (s : State) (g : ByteRegion) (a : Nat) (bs : List Byte) :
    (s.setBytes g a bs).ctrl = s.ctrl := rfl
@[simp] theorem setBytes_shortAddrOvr (s : State) (g : ByteRegion) (a : Nat) (bs : List Byte) :
    (s.setBytes g a bs).shortAddrOvr = s.shortAddrOvr := rfl
@[simp] theorem setBytes_chanA (s : State) (g : ByteRegion) (a : Nat) (bs : List Byte) :
    (s.setBytes g a bs).chanA = s.chanA := rfl
@[simp] theorem setBytes_chanB (s : State) (g : ByteRegion) (a : Nat) (bs : List Byte) :
    (s.setBytes g a bs).chanB = s.chanB := rfl
@[simp] theorem setBytes_bC (s : State) (g : ByteRegion) (a : Nat) (bs : List Byte) :
    (s.setBytes g a bs).bC = s.bC := rfl
@[simp] theorem setBytes_bC0 (s : State) (g : ByteRegion) (a : Nat) (bs : List Byte) :
    (s.setBytes g a bs).bC0 = s.bC0 := rfl
@[simp] theorem setBytes_upg (s : State) (g : ByteRegion) (a : Nat) (bs : List Byte) :
    (s.setBytes g a bs).upg = s.upg := rfl
@[simp] theorem setBytes_nCo (s : State) (g : ByteRegion) (a : Nat) (bs : List Byte) :
    (s.setBytes g a bs).nCo = s.nCo := rfl
@[simp] theorem setBytes_epc (s : State) (g : ByteRegion) (a : Nat) (bs : List Byte) :
    (s.setBytes g a bs).epc = s.epc := rfl
@[simp] theorem setBytes_epcLoadval (s : State) (g : ByteRegion) (a : Nat) (bs : List Byte) :
    (s.setBytes g a bs).epcLoadval = s.epcLoadval := rfl
@[simp] theorem setBytes_epcStore (s : State) (g : ByteRegion) (a : Nat) (bs : List Byte) :
    (s.setBytes g a bs).epcStore = s.epcStore := rfl
@[simp] theorem setBytes_f0 (s : State) (g : ByteRegion) (a : Nat) (bs : List Byte) :
    (s.setBytes g a bs).f0 = s.f0 := rfl
@[simp] theorem setBytes_numBursts (s : State) (g : ByteRegion) (a : Nat) (bs : List Byte) :
    (s.setBytes g a bs).numBursts = s.numBursts := rfl
@[simp] theorem setBytes_mpduLen (s : State) (g : ByteRegion) (a : Nat) (bs : List Byte) :
    (s.setBytes g a bs).mpduLen = s.mpduLen := rfl
@[simp] theorem setBytes_crcHdr (s : State) (g : ByteRegion) (a : Nat) (bs : List Byte) :
    (s.setBytes g a bs).crcHdr = s.crcHdr := rfl
@[simp] theorem setBytes_crcPay (s : State) (g : ByteRegion) (a : Nat) (bs : List Byte) :
    (s.setBytes g a bs).crcPay = s.crcPay := rfl
@[simp] theorem setBytes_tsmaLfsr (s : State) (g : ByteRegion) (a : Nat) (bs : List Byte) :
    (s.setBytes g a bs).tsmaLfsr = s.tsmaLfsr := rfl
@[simp] theorem setBytes_whitenLfsr (s : State) (g : ByteRegion) (a : Nat) (bs : List Byte) :
    (s.setBytes g a bs).whitenLfsr = s.whitenLfsr := rfl
@[simp] theorem setBytes_convSr (s : State) (g : ByteRegion) (a : Nat) (bs : List Byte) :
    (s.setBytes g a bs).convSr = s.convSr := rfl
@[simp] theorem setBytes_outInfo (s : State) (g : ByteRegion) (a : Nat) (bs : List Byte) :
    (s.setBytes g a bs).outInfo = s.outInfo := rfl
@[simp] theorem setBytes_mem (s : State) (g : ByteRegion) (a : Nat) (bs : List Byte) :
    (s.setBytes g a bs).mem = s.mem.writeList (g.base + a) bs := rfl
@[simp] theorem setBytes_bursts (s : State) (g : ByteRegion) (a : Nat) (bs : List Byte) :
    (s.setBytes g a bs).bursts = s.bursts := rfl
@[simp] theorem setBytes_hostQueue (s : State) (g : ByteRegion) (a : Nat) (bs : List Byte) :
    (s.setBytes g a bs).hostQueue = s.hostQueue := rfl
@[simp] theorem setBytes_busResponse (s : State) (g : ByteRegion) (a : Nat) (bs : List Byte) :
    (s.setBytes g a bs).busResponse = s.busResponse := rfl

@[simp] theorem setBytes_burst (s : State) (g : ByteRegion) (a : Nat) (bs : List Byte) (r : Nat) : (s.setBytes g a bs).burst r = s.burst r := rfl

/-! ### setBlock (41_aes_cmac.md R106) -/

@[simp] theorem setBlock_status (s : State) (g : ByteRegion) (x : Block) : (s.setBlock g x).status = s.status := rfl
@[simp] theorem setBlock_result (s : State) (g : ByteRegion) (x : Block) : (s.setBlock g x).result = s.result := rfl
@[simp] theorem setBlock_events (s : State) (g : ByteRegion) (x : Block) : (s.setBlock g x).events = s.events := rfl
@[simp] theorem setBlock_ctrl (s : State) (g : ByteRegion) (x : Block) : (s.setBlock g x).ctrl = s.ctrl := rfl
@[simp] theorem setBlock_shortAddrOvr (s : State) (g : ByteRegion) (x : Block) :
    (s.setBlock g x).shortAddrOvr = s.shortAddrOvr := rfl
@[simp] theorem setBlock_chanA (s : State) (g : ByteRegion) (x : Block) : (s.setBlock g x).chanA = s.chanA := rfl
@[simp] theorem setBlock_chanB (s : State) (g : ByteRegion) (x : Block) : (s.setBlock g x).chanB = s.chanB := rfl
@[simp] theorem setBlock_bC (s : State) (g : ByteRegion) (x : Block) : (s.setBlock g x).bC = s.bC := rfl
@[simp] theorem setBlock_bC0 (s : State) (g : ByteRegion) (x : Block) : (s.setBlock g x).bC0 = s.bC0 := rfl
@[simp] theorem setBlock_upg (s : State) (g : ByteRegion) (x : Block) : (s.setBlock g x).upg = s.upg := rfl
@[simp] theorem setBlock_nCo (s : State) (g : ByteRegion) (x : Block) : (s.setBlock g x).nCo = s.nCo := rfl
@[simp] theorem setBlock_epc (s : State) (g : ByteRegion) (x : Block) : (s.setBlock g x).epc = s.epc := rfl
@[simp] theorem setBlock_epcLoadval (s : State) (g : ByteRegion) (x : Block) :
    (s.setBlock g x).epcLoadval = s.epcLoadval := rfl
@[simp] theorem setBlock_epcStore (s : State) (g : ByteRegion) (x : Block) :
    (s.setBlock g x).epcStore = s.epcStore := rfl
@[simp] theorem setBlock_f0 (s : State) (g : ByteRegion) (x : Block) : (s.setBlock g x).f0 = s.f0 := rfl
@[simp] theorem setBlock_numBursts (s : State) (g : ByteRegion) (x : Block) :
    (s.setBlock g x).numBursts = s.numBursts := rfl
@[simp] theorem setBlock_mpduLen (s : State) (g : ByteRegion) (x : Block) :
    (s.setBlock g x).mpduLen = s.mpduLen := rfl
@[simp] theorem setBlock_crcHdr (s : State) (g : ByteRegion) (x : Block) : (s.setBlock g x).crcHdr = s.crcHdr := rfl
@[simp] theorem setBlock_crcPay (s : State) (g : ByteRegion) (x : Block) : (s.setBlock g x).crcPay = s.crcPay := rfl
@[simp] theorem setBlock_tsmaLfsr (s : State) (g : ByteRegion) (x : Block) :
    (s.setBlock g x).tsmaLfsr = s.tsmaLfsr := rfl
@[simp] theorem setBlock_whitenLfsr (s : State) (g : ByteRegion) (x : Block) :
    (s.setBlock g x).whitenLfsr = s.whitenLfsr := rfl
@[simp] theorem setBlock_convSr (s : State) (g : ByteRegion) (x : Block) : (s.setBlock g x).convSr = s.convSr := rfl
@[simp] theorem setBlock_outInfo (s : State) (g : ByteRegion) (x : Block) :
    (s.setBlock g x).outInfo = s.outInfo := rfl
@[simp] theorem setBlock_mem (s : State) (g : ByteRegion) (x : Block) :
    (s.setBlock g x).mem = s.mem.writeList (g.base + 0) (blockBytes x) := rfl
@[simp] theorem setBlock_bursts (s : State) (g : ByteRegion) (x : Block) : (s.setBlock g x).bursts = s.bursts := rfl
@[simp] theorem setBlock_hostQueue (s : State) (g : ByteRegion) (x : Block) :
    (s.setBlock g x).hostQueue = s.hostQueue := rfl
@[simp] theorem setBlock_busResponse (s : State) (g : ByteRegion) (x : Block) :
    (s.setBlock g x).busResponse = s.busResponse := rfl

@[simp] theorem setBlock_burst (s : State) (g : ByteRegion) (x : Block) (r : Nat) : (s.setBlock g x).burst r = s.burst r := rfl

/-! ### setBurst (00_scope.md R12) -/

@[simp] theorem setBurst_status (s : State) (r : Nat) (x : BurstRec) : (s.setBurst r x).status = s.status := rfl
@[simp] theorem setBurst_result (s : State) (r : Nat) (x : BurstRec) : (s.setBurst r x).result = s.result := rfl
@[simp] theorem setBurst_events (s : State) (r : Nat) (x : BurstRec) : (s.setBurst r x).events = s.events := rfl
@[simp] theorem setBurst_ctrl (s : State) (r : Nat) (x : BurstRec) : (s.setBurst r x).ctrl = s.ctrl := rfl
@[simp] theorem setBurst_shortAddrOvr (s : State) (r : Nat) (x : BurstRec) :
    (s.setBurst r x).shortAddrOvr = s.shortAddrOvr := rfl
@[simp] theorem setBurst_chanA (s : State) (r : Nat) (x : BurstRec) : (s.setBurst r x).chanA = s.chanA := rfl
@[simp] theorem setBurst_chanB (s : State) (r : Nat) (x : BurstRec) : (s.setBurst r x).chanB = s.chanB := rfl
@[simp] theorem setBurst_bC (s : State) (r : Nat) (x : BurstRec) : (s.setBurst r x).bC = s.bC := rfl
@[simp] theorem setBurst_bC0 (s : State) (r : Nat) (x : BurstRec) : (s.setBurst r x).bC0 = s.bC0 := rfl
@[simp] theorem setBurst_upg (s : State) (r : Nat) (x : BurstRec) : (s.setBurst r x).upg = s.upg := rfl
@[simp] theorem setBurst_nCo (s : State) (r : Nat) (x : BurstRec) : (s.setBurst r x).nCo = s.nCo := rfl
@[simp] theorem setBurst_epc (s : State) (r : Nat) (x : BurstRec) : (s.setBurst r x).epc = s.epc := rfl
@[simp] theorem setBurst_epcLoadval (s : State) (r : Nat) (x : BurstRec) :
    (s.setBurst r x).epcLoadval = s.epcLoadval := rfl
@[simp] theorem setBurst_epcStore (s : State) (r : Nat) (x : BurstRec) : (s.setBurst r x).epcStore = s.epcStore := rfl
@[simp] theorem setBurst_f0 (s : State) (r : Nat) (x : BurstRec) : (s.setBurst r x).f0 = s.f0 := rfl
@[simp] theorem setBurst_numBursts (s : State) (r : Nat) (x : BurstRec) :
    (s.setBurst r x).numBursts = s.numBursts := rfl
@[simp] theorem setBurst_mpduLen (s : State) (r : Nat) (x : BurstRec) : (s.setBurst r x).mpduLen = s.mpduLen := rfl
@[simp] theorem setBurst_crcHdr (s : State) (r : Nat) (x : BurstRec) : (s.setBurst r x).crcHdr = s.crcHdr := rfl
@[simp] theorem setBurst_crcPay (s : State) (r : Nat) (x : BurstRec) : (s.setBurst r x).crcPay = s.crcPay := rfl
@[simp] theorem setBurst_tsmaLfsr (s : State) (r : Nat) (x : BurstRec) : (s.setBurst r x).tsmaLfsr = s.tsmaLfsr := rfl
@[simp] theorem setBurst_whitenLfsr (s : State) (r : Nat) (x : BurstRec) :
    (s.setBurst r x).whitenLfsr = s.whitenLfsr := rfl
@[simp] theorem setBurst_convSr (s : State) (r : Nat) (x : BurstRec) : (s.setBurst r x).convSr = s.convSr := rfl
@[simp] theorem setBurst_outInfo (s : State) (r : Nat) (x : BurstRec) : (s.setBurst r x).outInfo = s.outInfo := rfl
@[simp] theorem setBurst_mem (s : State) (r : Nat) (x : BurstRec) : (s.setBurst r x).mem = s.mem := rfl
@[simp] theorem setBurst_bursts (s : State) (r : Nat) (x : BurstRec) :
    (s.setBurst r x).bursts = s.bursts.put r x := rfl
@[simp] theorem setBurst_hostQueue (s : State) (r : Nat) (x : BurstRec) :
    (s.setBurst r x).hostQueue = s.hostQueue := rfl
@[simp] theorem setBurst_busResponse (s : State) (r : Nat) (x : BurstRec) :
    (s.setBurst r x).busResponse = s.busResponse := rfl

@[simp] theorem setBurst_byte (s : State) (r : Nat) (x : BurstRec) (g : ByteRegion) : (s.setBurst r x).byte g = s.byte g := rfl
@[simp] theorem setBurst_bytes (s : State) (r : Nat) (x : BurstRec) (g : ByteRegion) (a n : Nat) : (s.setBurst r x).bytes g a n = s.bytes g a n := rfl
@[simp] theorem setBurst_block (s : State) (r : Nat) (x : BurstRec) (g : ByteRegion) : (s.setBurst r x).block g = s.block g := rfl

/-! ### writeSubkeys (41_aes_cmac.md R114) -/

theorem writeSubkeys_eq (s : State) : writeSubkeys s =
    (s.setBlock .k1 (subkey1 (s.block .key))).setBlock .k2 (subkey2 (s.block .key)) := rfl

@[simp] theorem writeSubkeys_status (s : State) :
    (writeSubkeys s).status = s.status := by
  rw [writeSubkeys_eq, setBlock_status, setBlock_status]
@[simp] theorem writeSubkeys_result (s : State) :
    (writeSubkeys s).result = s.result := by
  rw [writeSubkeys_eq, setBlock_result, setBlock_result]
@[simp] theorem writeSubkeys_events (s : State) :
    (writeSubkeys s).events = s.events := by
  rw [writeSubkeys_eq, setBlock_events, setBlock_events]
@[simp] theorem writeSubkeys_ctrl (s : State) :
    (writeSubkeys s).ctrl = s.ctrl := by
  rw [writeSubkeys_eq, setBlock_ctrl, setBlock_ctrl]
@[simp] theorem writeSubkeys_shortAddrOvr (s : State) :
    (writeSubkeys s).shortAddrOvr = s.shortAddrOvr := by
  rw [writeSubkeys_eq, setBlock_shortAddrOvr, setBlock_shortAddrOvr]
@[simp] theorem writeSubkeys_chanA (s : State) :
    (writeSubkeys s).chanA = s.chanA := by
  rw [writeSubkeys_eq, setBlock_chanA, setBlock_chanA]
@[simp] theorem writeSubkeys_chanB (s : State) :
    (writeSubkeys s).chanB = s.chanB := by
  rw [writeSubkeys_eq, setBlock_chanB, setBlock_chanB]
@[simp] theorem writeSubkeys_bC (s : State) :
    (writeSubkeys s).bC = s.bC := by
  rw [writeSubkeys_eq, setBlock_bC, setBlock_bC]
@[simp] theorem writeSubkeys_bC0 (s : State) :
    (writeSubkeys s).bC0 = s.bC0 := by
  rw [writeSubkeys_eq, setBlock_bC0, setBlock_bC0]
@[simp] theorem writeSubkeys_upg (s : State) :
    (writeSubkeys s).upg = s.upg := by
  rw [writeSubkeys_eq, setBlock_upg, setBlock_upg]
@[simp] theorem writeSubkeys_nCo (s : State) :
    (writeSubkeys s).nCo = s.nCo := by
  rw [writeSubkeys_eq, setBlock_nCo, setBlock_nCo]
@[simp] theorem writeSubkeys_epc (s : State) :
    (writeSubkeys s).epc = s.epc := by
  rw [writeSubkeys_eq, setBlock_epc, setBlock_epc]
@[simp] theorem writeSubkeys_epcLoadval (s : State) :
    (writeSubkeys s).epcLoadval = s.epcLoadval := by
  rw [writeSubkeys_eq, setBlock_epcLoadval, setBlock_epcLoadval]
@[simp] theorem writeSubkeys_epcStore (s : State) :
    (writeSubkeys s).epcStore = s.epcStore := by
  rw [writeSubkeys_eq, setBlock_epcStore, setBlock_epcStore]
@[simp] theorem writeSubkeys_f0 (s : State) :
    (writeSubkeys s).f0 = s.f0 := by
  rw [writeSubkeys_eq, setBlock_f0, setBlock_f0]
@[simp] theorem writeSubkeys_numBursts (s : State) :
    (writeSubkeys s).numBursts = s.numBursts := by
  rw [writeSubkeys_eq, setBlock_numBursts, setBlock_numBursts]
@[simp] theorem writeSubkeys_mpduLen (s : State) :
    (writeSubkeys s).mpduLen = s.mpduLen := by
  rw [writeSubkeys_eq, setBlock_mpduLen, setBlock_mpduLen]
@[simp] theorem writeSubkeys_crcHdr (s : State) :
    (writeSubkeys s).crcHdr = s.crcHdr := by
  rw [writeSubkeys_eq, setBlock_crcHdr, setBlock_crcHdr]
@[simp] theorem writeSubkeys_crcPay (s : State) :
    (writeSubkeys s).crcPay = s.crcPay := by
  rw [writeSubkeys_eq, setBlock_crcPay, setBlock_crcPay]
@[simp] theorem writeSubkeys_tsmaLfsr (s : State) :
    (writeSubkeys s).tsmaLfsr = s.tsmaLfsr := by
  rw [writeSubkeys_eq, setBlock_tsmaLfsr, setBlock_tsmaLfsr]
@[simp] theorem writeSubkeys_whitenLfsr (s : State) :
    (writeSubkeys s).whitenLfsr = s.whitenLfsr := by
  rw [writeSubkeys_eq, setBlock_whitenLfsr, setBlock_whitenLfsr]
@[simp] theorem writeSubkeys_convSr (s : State) :
    (writeSubkeys s).convSr = s.convSr := by
  rw [writeSubkeys_eq, setBlock_convSr, setBlock_convSr]
@[simp] theorem writeSubkeys_outInfo (s : State) :
    (writeSubkeys s).outInfo = s.outInfo := by
  rw [writeSubkeys_eq, setBlock_outInfo, setBlock_outInfo]
@[simp] theorem writeSubkeys_mem (s : State) :
    (writeSubkeys s).mem =
      ((s.setBlock .k1 (subkey1 (s.block .key))).setBlock .k2 (subkey2 (s.block .key))).mem := rfl
@[simp] theorem writeSubkeys_bursts (s : State) :
    (writeSubkeys s).bursts = s.bursts := by
  rw [writeSubkeys_eq, setBlock_bursts, setBlock_bursts]
@[simp] theorem writeSubkeys_hostQueue (s : State) :
    (writeSubkeys s).hostQueue = s.hostQueue := by
  rw [writeSubkeys_eq, setBlock_hostQueue, setBlock_hostQueue]
@[simp] theorem writeSubkeys_busResponse (s : State) :
    (writeSubkeys s).busResponse = s.busResponse := by
  rw [writeSubkeys_eq, setBlock_busResponse, setBlock_busResponse]

@[simp] theorem writeSubkeys_burst (s : State) (r : Nat) : (writeSubkeys s).burst r = s.burst r := by
  rw [State.burst, writeSubkeys_bursts, State.burst]

/-! ### epcIncrement (40_control.md R102) -/

@[simp] theorem epcIncrement_status (s : State) : (epcIncrement s).status = s.status := rfl
@[simp] theorem epcIncrement_result (s : State) : (epcIncrement s).result = s.result := rfl
@[simp] theorem epcIncrement_events (s : State) :
    (epcIncrement s).events = if (s.epc + 1).setWidth 8 == 0#8 then s.events.setPersistReq else s.events := rfl
@[simp] theorem epcIncrement_ctrl (s : State) : (epcIncrement s).ctrl = s.ctrl := rfl
@[simp] theorem epcIncrement_shortAddrOvr (s : State) : (epcIncrement s).shortAddrOvr = s.shortAddrOvr := rfl
@[simp] theorem epcIncrement_chanA (s : State) : (epcIncrement s).chanA = s.chanA := rfl
@[simp] theorem epcIncrement_chanB (s : State) : (epcIncrement s).chanB = s.chanB := rfl
@[simp] theorem epcIncrement_bC (s : State) : (epcIncrement s).bC = s.bC := rfl
@[simp] theorem epcIncrement_bC0 (s : State) : (epcIncrement s).bC0 = s.bC0 := rfl
@[simp] theorem epcIncrement_upg (s : State) : (epcIncrement s).upg = s.upg := rfl
@[simp] theorem epcIncrement_nCo (s : State) : (epcIncrement s).nCo = s.nCo := rfl
@[simp] theorem epcIncrement_epc (s : State) : (epcIncrement s).epc = s.epc + 1 := rfl
@[simp] theorem epcIncrement_epcLoadval (s : State) : (epcIncrement s).epcLoadval = s.epcLoadval := rfl
@[simp] theorem epcIncrement_epcStore (s : State) :
    (epcIncrement s).epcStore = if (s.epc + 1).setWidth 8 == 0#8 then (s.epc + 1).setWidth 24 else s.epcStore := rfl
@[simp] theorem epcIncrement_f0 (s : State) : (epcIncrement s).f0 = s.f0 := rfl
@[simp] theorem epcIncrement_numBursts (s : State) : (epcIncrement s).numBursts = s.numBursts := rfl
@[simp] theorem epcIncrement_mpduLen (s : State) : (epcIncrement s).mpduLen = s.mpduLen := rfl
@[simp] theorem epcIncrement_crcHdr (s : State) : (epcIncrement s).crcHdr = s.crcHdr := rfl
@[simp] theorem epcIncrement_crcPay (s : State) : (epcIncrement s).crcPay = s.crcPay := rfl
@[simp] theorem epcIncrement_tsmaLfsr (s : State) : (epcIncrement s).tsmaLfsr = s.tsmaLfsr := rfl
@[simp] theorem epcIncrement_whitenLfsr (s : State) : (epcIncrement s).whitenLfsr = s.whitenLfsr := rfl
@[simp] theorem epcIncrement_convSr (s : State) : (epcIncrement s).convSr = s.convSr := rfl
@[simp] theorem epcIncrement_outInfo (s : State) : (epcIncrement s).outInfo = s.outInfo := rfl
@[simp] theorem epcIncrement_mem (s : State) : (epcIncrement s).mem = s.mem := rfl
@[simp] theorem epcIncrement_bursts (s : State) : (epcIncrement s).bursts = s.bursts := rfl
@[simp] theorem epcIncrement_hostQueue (s : State) : (epcIncrement s).hostQueue = s.hostQueue := rfl
@[simp] theorem epcIncrement_busResponse (s : State) : (epcIncrement s).busResponse = s.busResponse := rfl

@[simp] theorem epcIncrement_byte (s : State) (g : ByteRegion) : (epcIncrement s).byte g = s.byte g := rfl
@[simp] theorem epcIncrement_bytes (s : State) (g : ByteRegion) (a n : Nat) : (epcIncrement s).bytes g a n = s.bytes g a n := rfl
@[simp] theorem epcIncrement_block (s : State) (g : ByteRegion) : (epcIncrement s).block g = s.block g := rfl
@[simp] theorem epcIncrement_burst (s : State) (r : Nat) : (epcIncrement s).burst r = s.burst r := rfl

/-! ### answer (20_memory.md R63) -/

@[simp] theorem answer_status (s : State) (d : Word) : (s.answer d).status = s.status := rfl
@[simp] theorem answer_result (s : State) (d : Word) : (s.answer d).result = s.result := rfl
@[simp] theorem answer_events (s : State) (d : Word) : (s.answer d).events = s.events := rfl
@[simp] theorem answer_ctrl (s : State) (d : Word) : (s.answer d).ctrl = s.ctrl := rfl
@[simp] theorem answer_shortAddrOvr (s : State) (d : Word) : (s.answer d).shortAddrOvr = s.shortAddrOvr := rfl
@[simp] theorem answer_chanA (s : State) (d : Word) : (s.answer d).chanA = s.chanA := rfl
@[simp] theorem answer_chanB (s : State) (d : Word) : (s.answer d).chanB = s.chanB := rfl
@[simp] theorem answer_bC (s : State) (d : Word) : (s.answer d).bC = s.bC := rfl
@[simp] theorem answer_bC0 (s : State) (d : Word) : (s.answer d).bC0 = s.bC0 := rfl
@[simp] theorem answer_upg (s : State) (d : Word) : (s.answer d).upg = s.upg := rfl
@[simp] theorem answer_nCo (s : State) (d : Word) : (s.answer d).nCo = s.nCo := rfl
@[simp] theorem answer_epc (s : State) (d : Word) : (s.answer d).epc = s.epc := rfl
@[simp] theorem answer_epcLoadval (s : State) (d : Word) : (s.answer d).epcLoadval = s.epcLoadval := rfl
@[simp] theorem answer_epcStore (s : State) (d : Word) : (s.answer d).epcStore = s.epcStore := rfl
@[simp] theorem answer_f0 (s : State) (d : Word) : (s.answer d).f0 = s.f0 := rfl
@[simp] theorem answer_numBursts (s : State) (d : Word) : (s.answer d).numBursts = s.numBursts := rfl
@[simp] theorem answer_mpduLen (s : State) (d : Word) : (s.answer d).mpduLen = s.mpduLen := rfl
@[simp] theorem answer_crcHdr (s : State) (d : Word) : (s.answer d).crcHdr = s.crcHdr := rfl
@[simp] theorem answer_crcPay (s : State) (d : Word) : (s.answer d).crcPay = s.crcPay := rfl
@[simp] theorem answer_tsmaLfsr (s : State) (d : Word) : (s.answer d).tsmaLfsr = s.tsmaLfsr := rfl
@[simp] theorem answer_whitenLfsr (s : State) (d : Word) : (s.answer d).whitenLfsr = s.whitenLfsr := rfl
@[simp] theorem answer_convSr (s : State) (d : Word) : (s.answer d).convSr = s.convSr := rfl
@[simp] theorem answer_outInfo (s : State) (d : Word) : (s.answer d).outInfo = s.outInfo := rfl
@[simp] theorem answer_mem (s : State) (d : Word) : (s.answer d).mem = s.mem := rfl
@[simp] theorem answer_bursts (s : State) (d : Word) : (s.answer d).bursts = s.bursts := rfl
@[simp] theorem answer_hostQueue (s : State) (d : Word) : (s.answer d).hostQueue = s.hostQueue := rfl
@[simp] theorem answer_busResponse (s : State) (d : Word) :
    (s.answer d).busResponse = some { error := false, data := d } := rfl

@[simp] theorem answer_byte (s : State) (d : Word) (g : ByteRegion) : (s.answer d).byte g = s.byte g := rfl
@[simp] theorem answer_bytes (s : State) (d : Word) (g : ByteRegion) (a n : Nat) : (s.answer d).bytes g a n = s.bytes g a n := rfl
@[simp] theorem answer_block (s : State) (d : Word) (g : ByteRegion) : (s.answer d).block g = s.block g := rfl
@[simp] theorem answer_burst (s : State) (d : Word) (r : Nat) : (s.answer d).burst r = s.burst r := rfl

/-! ### busError (20_memory.md R65) -/

@[simp] theorem busError_status (s : State) : (s.busError).status = s.status := rfl
@[simp] theorem busError_result (s : State) : (s.busError).result = s.result := rfl
@[simp] theorem busError_events (s : State) : (s.busError).events = s.events := rfl
@[simp] theorem busError_ctrl (s : State) : (s.busError).ctrl = s.ctrl := rfl
@[simp] theorem busError_shortAddrOvr (s : State) : (s.busError).shortAddrOvr = s.shortAddrOvr := rfl
@[simp] theorem busError_chanA (s : State) : (s.busError).chanA = s.chanA := rfl
@[simp] theorem busError_chanB (s : State) : (s.busError).chanB = s.chanB := rfl
@[simp] theorem busError_bC (s : State) : (s.busError).bC = s.bC := rfl
@[simp] theorem busError_bC0 (s : State) : (s.busError).bC0 = s.bC0 := rfl
@[simp] theorem busError_upg (s : State) : (s.busError).upg = s.upg := rfl
@[simp] theorem busError_nCo (s : State) : (s.busError).nCo = s.nCo := rfl
@[simp] theorem busError_epc (s : State) : (s.busError).epc = s.epc := rfl
@[simp] theorem busError_epcLoadval (s : State) : (s.busError).epcLoadval = s.epcLoadval := rfl
@[simp] theorem busError_epcStore (s : State) : (s.busError).epcStore = s.epcStore := rfl
@[simp] theorem busError_f0 (s : State) : (s.busError).f0 = s.f0 := rfl
@[simp] theorem busError_numBursts (s : State) : (s.busError).numBursts = s.numBursts := rfl
@[simp] theorem busError_mpduLen (s : State) : (s.busError).mpduLen = s.mpduLen := rfl
@[simp] theorem busError_crcHdr (s : State) : (s.busError).crcHdr = s.crcHdr := rfl
@[simp] theorem busError_crcPay (s : State) : (s.busError).crcPay = s.crcPay := rfl
@[simp] theorem busError_tsmaLfsr (s : State) : (s.busError).tsmaLfsr = s.tsmaLfsr := rfl
@[simp] theorem busError_whitenLfsr (s : State) : (s.busError).whitenLfsr = s.whitenLfsr := rfl
@[simp] theorem busError_convSr (s : State) : (s.busError).convSr = s.convSr := rfl
@[simp] theorem busError_outInfo (s : State) : (s.busError).outInfo = s.outInfo := rfl
@[simp] theorem busError_mem (s : State) : (s.busError).mem = s.mem := rfl
@[simp] theorem busError_bursts (s : State) : (s.busError).bursts = s.bursts := rfl
@[simp] theorem busError_hostQueue (s : State) : (s.busError).hostQueue = s.hostQueue := rfl
@[simp] theorem busError_busResponse (s : State) : (s.busError).busResponse = some { error := true, data := 0 } := rfl

@[simp] theorem busError_byte (s : State) (g : ByteRegion) : (s.busError).byte g = s.byte g := rfl
@[simp] theorem busError_bytes (s : State) (g : ByteRegion) (a n : Nat) : (s.busError).bytes g a n = s.bytes g a n := rfl
@[simp] theorem busError_block (s : State) (g : ByteRegion) : (s.busError).block g = s.block g := rfl
@[simp] theorem busError_burst (s : State) (r : Nat) : (s.busError).burst r = s.burst r := rfl

/-! ### withCommand (30_encoding.md R96) -/

@[simp] theorem withCommand_status (s : State) (w : Word) : (s.withCommand w).status = s.status := rfl
@[simp] theorem withCommand_result (s : State) (w : Word) : (s.withCommand w).result = s.result := rfl
@[simp] theorem withCommand_events (s : State) (w : Word) : (s.withCommand w).events = s.events := rfl
@[simp] theorem withCommand_ctrl (s : State) (w : Word) : (s.withCommand w).ctrl = s.ctrl := rfl
@[simp] theorem withCommand_shortAddrOvr (s : State) (w : Word) :
    (s.withCommand w).shortAddrOvr = s.shortAddrOvr := rfl
@[simp] theorem withCommand_chanA (s : State) (w : Word) : (s.withCommand w).chanA = s.chanA := rfl
@[simp] theorem withCommand_chanB (s : State) (w : Word) : (s.withCommand w).chanB = s.chanB := rfl
@[simp] theorem withCommand_bC (s : State) (w : Word) : (s.withCommand w).bC = s.bC := rfl
@[simp] theorem withCommand_bC0 (s : State) (w : Word) : (s.withCommand w).bC0 = s.bC0 := rfl
@[simp] theorem withCommand_upg (s : State) (w : Word) : (s.withCommand w).upg = s.upg := rfl
@[simp] theorem withCommand_nCo (s : State) (w : Word) : (s.withCommand w).nCo = s.nCo := rfl
@[simp] theorem withCommand_epc (s : State) (w : Word) : (s.withCommand w).epc = s.epc := rfl
@[simp] theorem withCommand_epcLoadval (s : State) (w : Word) : (s.withCommand w).epcLoadval = s.epcLoadval := rfl
@[simp] theorem withCommand_epcStore (s : State) (w : Word) : (s.withCommand w).epcStore = s.epcStore := rfl
@[simp] theorem withCommand_f0 (s : State) (w : Word) : (s.withCommand w).f0 = s.f0 := rfl
@[simp] theorem withCommand_numBursts (s : State) (w : Word) : (s.withCommand w).numBursts = s.numBursts := rfl
@[simp] theorem withCommand_mpduLen (s : State) (w : Word) : (s.withCommand w).mpduLen = s.mpduLen := rfl
@[simp] theorem withCommand_crcHdr (s : State) (w : Word) : (s.withCommand w).crcHdr = s.crcHdr := rfl
@[simp] theorem withCommand_crcPay (s : State) (w : Word) : (s.withCommand w).crcPay = s.crcPay := rfl
@[simp] theorem withCommand_tsmaLfsr (s : State) (w : Word) : (s.withCommand w).tsmaLfsr = s.tsmaLfsr := rfl
@[simp] theorem withCommand_whitenLfsr (s : State) (w : Word) : (s.withCommand w).whitenLfsr = s.whitenLfsr := rfl
@[simp] theorem withCommand_convSr (s : State) (w : Word) : (s.withCommand w).convSr = s.convSr := rfl
@[simp] theorem withCommand_outInfo (s : State) (w : Word) : (s.withCommand w).outInfo = s.outInfo := rfl
@[simp] theorem withCommand_mem (s : State) (w : Word) : (s.withCommand w).mem = s.mem := rfl
@[simp] theorem withCommand_bursts (s : State) (w : Word) : (s.withCommand w).bursts = s.bursts := rfl
@[simp] theorem withCommand_hostQueue (s : State) (w : Word) :
    (s.withCommand w).hostQueue = commandWrite w :: s.hostQueue := rfl
@[simp] theorem withCommand_busResponse (s : State) (w : Word) : (s.withCommand w).busResponse = s.busResponse := rfl

@[simp] theorem withCommand_byte (s : State) (w : Word) (g : ByteRegion) : (s.withCommand w).byte g = s.byte g := rfl
@[simp] theorem withCommand_bytes (s : State) (w : Word) (g : ByteRegion) (a n : Nat) : (s.withCommand w).bytes g a n = s.bytes g a n := rfl
@[simp] theorem withCommand_block (s : State) (w : Word) (g : ByteRegion) : (s.withCommand w).block g = s.block g := rfl
@[simp] theorem withCommand_burst (s : State) (w : Word) (r : Nat) : (s.withCommand w).burst r = s.burst r := rfl

/-! ### platformReset (70_reset_and_hazards.md R187) -/

@[simp] theorem platformReset_eq (s : State) : s.platformReset = { State.reset with hostQueue := s.hostQueue } := rfl

end Sys2Proof.Machine
end

