-- ==== Sys2Proof/Laws/Commands.lean ====
section
/-! SUPPORT. What a command step, a check and a served host event can do, said once each. -/

namespace Sys2Proof.Machine

/-! ### Checks (60_exceptions.md R173) -/

@[simp] theorem firstError_nil : firstError [] = none := rfl

@[simp] theorem firstError_cons_true (c : ErrorCode) (l : List (Bool × ErrorCode)) :
    firstError ((true, c) :: l) = some c := rfl

@[simp] theorem firstError_cons_false (c : ErrorCode) (l : List (Bool × ErrorCode)) :
    firstError ((false, c) :: l) = firstError l := rfl

/-- The checks pass exactly when none of their conditions holds. -/
theorem firstError_eq_none_iff (l : List (Bool × ErrorCode)) :
    firstError l = none ↔ ∀ p ∈ l, p.1 = false := by
  induction l with
  | nil => simp
  | cons p l ih =>
    obtain ⟨b, c⟩ := p
    cases b <;> simp [ih]

/-- A check that fails reports the code of a condition that holds. -/
theorem firstError_mem {l : List (Bool × ErrorCode)} {c : ErrorCode} (h : firstError l = some c) :
    (true, c) ∈ l := by
  induction l with
  | nil => simp at h
  | cons p l ih =>
    obtain ⟨b, d⟩ := p
    cases b
    · exact List.mem_cons_of_mem _ (ih (by simpa using h))
    · simp at h
      simp [h]

/-- The locks' check is R170's "key/EUI not set". -/
theorem locksMissing_iff (s : State) : locksMissing s = true ↔ ¬Provisioned s := by
  unfold locksMissing
  generalize hk : s.ctrl.keyLock = k
  generalize he : s.ctrl.euiLock = e
  cases k <;> cases e <;> simp [Provisioned, hk, he]

theorem badChannel_iff (s : State) (fc : BitVec 32) : badChannel s fc = true ↔ ¬ChannelOk s fc := by
  simp only [badChannel, Bool.or_eq_true, decide_eq_true_eq]
  omega

theorem upg_legal_iff (u : BitVec 2) : (u = 1#2 ∨ u = 2#2 ∨ u = 3#2) ↔ u ≠ 0#2 := by
  revert u
  decide

/-- The region's check is the failure of RegionCheck() (45_tsma_sync.md R146). -/
theorem regionBad_iff (s : State) : regionBad s = true ↔ ¬RegionOk s := by
  have a := badChannel_iff s s.chanA
  have b := badChannel_iff s s.chanB
  have u := upg_legal_iff s.upg
  have l : (24 * s.bC.toNat > 0xFFFE) ↔ ¬(24 * s.bC.toNat ≤ 0xFFFE) := by omega
  have n : (!(s.nCo == 3#4 || s.nCo == 11#4)) = true ↔ ¬(s.nCo = 3#4 ∨ s.nCo = 11#4) := by simp
  unfold RegionOk regionBad
  rw [Bool.or_eq_true, Bool.or_eq_true, Bool.or_eq_true, Bool.or_eq_true, n, decide_eq_true_eq, l, a, b, beq_iff_eq, u]
  simp only [not_and_or, not_not, ne_eq, or_assoc]

/-! ### The command step (30_encoding.md R96, R97; 60_exceptions.md R175) -/

variable {m : Mnemonic} {check : State → CheckResult} {body : State → Word × State}

/-- A command whose checks find an error. -/
theorem runCommand_error {s : State} {c : ErrorCode} (h : check (s.setLastOp m.opcode) = some c) :
    runCommand m check body s = .next ((s.setLastOp m.opcode).raiseError c) := by
  simp [runCommand, h]

/-- A command whose checks pass. -/
theorem runCommand_ok {s : State} (h : check (s.setLastOp m.opcode) = none) :
    runCommand m check body s =
      .next ((body (s.setLastOp m.opcode)).2.complete (body (s.setLastOp m.opcode)).1) := by
  simp [runCommand, h]

/-- The two ends of a command step, and no others. -/
theorem runCommand_cases {s t : State} (h : runCommand m check body s = .next t) :
    (∃ c, check (s.setLastOp m.opcode) = some c ∧ t = (s.setLastOp m.opcode).raiseError c) ∨
    (check (s.setLastOp m.opcode) = none ∧
      t = (body (s.setLastOp m.opcode)).2.complete (body (s.setLastOp m.opcode)).1) := by
  cases hc : check (s.setLastOp m.opcode) with
  | none =>
    rw [runCommand_ok hc] at h
    exact .inr ⟨rfl, (Host.Outcome.next.inj h).symm⟩
  | some c =>
    rw [runCommand_error hc] at h
    exact .inl ⟨c, rfl, (Host.Outcome.next.inj h).symm⟩

/-- A command step always answers a next state. -/
theorem runCommand_next (s : State) : ∃ t, runCommand m check body s = .next t := by
  cases hc : check (s.setLastOp m.opcode) with
  | none => exact ⟨_, runCommand_ok hc⟩
  | some c => exact ⟨_, runCommand_error hc⟩

/-- PHY_ENCODE or SEND whose checks find an error: F0 too is cleared (46_pipeline.md R161). -/
theorem runCommandF0_error {s : State} {c : ErrorCode} (h : check (s.setLastOp m.opcode) = some c) :
    runCommandF0 m check body s = .next ((s.setLastOp m.opcode).raiseError c).clearF0 := by
  simp [runCommandF0, h]

/-- PHY_ENCODE or SEND whose checks pass. -/
theorem runCommandF0_ok {s : State} (h : check (s.setLastOp m.opcode) = none) :
    runCommandF0 m check body s =
      .next ((body (s.setLastOp m.opcode)).2.complete (body (s.setLastOp m.opcode)).1) := by
  simp [runCommandF0, h]

/-- The two ends of PHY_ENCODE and SEND, and no others. -/
theorem runCommandF0_cases {s t : State} (h : runCommandF0 m check body s = .next t) :
    (∃ c, check (s.setLastOp m.opcode) = some c ∧ t = ((s.setLastOp m.opcode).raiseError c).clearF0) ∨
    (check (s.setLastOp m.opcode) = none ∧
      t = (body (s.setLastOp m.opcode)).2.complete (body (s.setLastOp m.opcode)).1) := by
  cases hc : check (s.setLastOp m.opcode) with
  | none =>
    rw [runCommandF0_ok hc] at h
    exact .inr ⟨rfl, (Host.Outcome.next.inj h).symm⟩
  | some c =>
    rw [runCommandF0_error hc] at h
    exact .inl ⟨c, rfl, (Host.Outcome.next.inj h).symm⟩

/-- PHY_ENCODE and SEND always answer a next state. -/
theorem runCommandF0_next (s : State) : ∃ t, runCommandF0 m check body s = .next t := by
  cases hc : check (s.setLastOp m.opcode) with
  | none => exact ⟨_, runCommandF0_ok hc⟩
  | some c => exact ⟨_, runCommandF0_error hc⟩

/-- The error's effect, as one update (R175). -/
theorem setLastOp_raiseError (s : State) (op : Byte) (c : ErrorCode) :
    (s.setLastOp op).raiseError c = s.failed op c.code := rfl

/-- Completion, as one update (R97). -/
theorem setLastOp_complete (s : State) (op : Byte) (v : Word) :
    (s.setLastOp op).complete v = { s with status := { lastErr := 0#8, lastOp := op }, result := v } := rfl

/-- An illegal command word's effect, as one update (R94, R168). -/
theorem illegalCommand_eq (w : Word) (s : State) : illegalCommand w s = .next (s.failed (opcodeField w) 5#8) := rfl

/-- Every instruction is a command step, so its meaning answers a next state. -/
theorem exec_next (i : Instr) (s : State) : ∃ t, exec i s = .next t := by
  cases i <;>
    simp only [exec, execNop, execEpcLoad, execEpcCommit, execAesBlock, execCmacSubkeys, execCmac, execBurstClear,
      execWriteSubPacketBit, execWriteBitIdx, execAddMidamble, execDiffMsk, execPuncture, execCtrCrypt, execMacEncode,
      execNumBursts, execPhyAssemble, execCrc8, execWhiten, execConvInterleave, execTsmaAssign, execLfsrStep, execCalcF0,
      execCrc2, execSyncEncode, execTsmaPattern, execPhyEncode, execSend] <;>
    first
    | exact runCommand_next s
    | exact runCommandF0_next s

/-! ### Serving the host (20_memory.md R63, R64; 30_encoding.md R96) -/

/-- With nothing to serve, nothing changes. -/
theorem step_idle {s : State} (h : s.hostQueue = []) : step s = .next s := by
  simp [step, stepOnce, h]

/-- A step serves the oldest event. -/
theorem step_cons {s : State} {e : HostEvent} {rest : List HostEvent} (h : s.hostQueue = e :: rest) :
    step s = serve e { s with hostQueue := rest } := by
  simp [step, stepOnce, h]

/-- The same where the event was put before those already there. -/
theorem step_before (s : State) (e : HostEvent) : step (s.before e) = serve e s := rfl

/-- What serving one event can do: a read or an illegal access sets the response; a write to CMD runs a command; any
other write writes one location; a reset gives the reset state. -/
theorem serve_cases (e : HostEvent) (s : State) :
    (∃ a n l, e = .read a n ∧ locate a n = some l ∧ serve e s = .next (s.answer (s.readLoc l))) ∨
    (∃ a n v, (e = .read a n ∨ e = .write a n v) ∧ locate a n = none ∧ serve e s = .next s.busError) ∨
    (∃ a n v, e = .write a n v ∧ locate a n = some (.reg .cmd) ∧ serve e s = issueCommand v (s.answer 0)) ∨
    (∃ a n v l, e = .write a n v ∧ locate a n = some l ∧ l ≠ .reg .cmd ∧
      serve e s = .next ((s.writeLoc v l).answer 0)) ∨
    (e = .reset ∧ serve e s = .next s.platformReset) := by
  cases e with
  | read a n =>
    cases h : locate a n with
    | none => exact .inr (.inl ⟨a, n, 0, .inl rfl, h, by simp [serve, State.serveRead, h]⟩)
    | some l => exact .inl ⟨a, n, l, rfl, h, by simp [serve, State.serveRead, h]⟩
  | write a n v =>
    cases h : locate a n with
    | none => exact .inr (.inl ⟨a, n, v, .inr rfl, h, by simp [serve, serveWrite, h]⟩)
    | some l =>
      by_cases hl : l = .reg .cmd
      · subst hl
        exact .inr (.inr (.inl ⟨a, n, v, rfl, h, by simp [serve, serveWrite, h]⟩))
      · refine .inr (.inr (.inr (.inl ⟨a, n, v, l, rfl, h, hl, ?_⟩)))
        simp only [serve, serveWrite, h]
  | reset => exact .inr (.inr (.inr (.inr ⟨rfl, rfl⟩)))

/-- Issuing a command word: its instruction's meaning, or ILLEGAL_COMMAND (R94, R96). -/
theorem issueCommand_cases (w : Word) (s : State) :
    (∃ i, decode w = .ok i ∧ issueCommand w s = exec i s) ∨
    (∃ e, decode w = .error e ∧ issueCommand w s = .next (s.failed (opcodeField w) 5#8)) := by
  cases h : decode w with
  | ok i => exact .inl ⟨i, rfl, by simp [issueCommand, h]⟩
  | error e => exact .inr ⟨e, rfl, by simp [issueCommand, h, illegalCommand_eq]⟩

/-! ### CMAC (41_aes_cmac.md R115) -/

/-- The loop of CMAC over the blocks before the last is the chain. -/
theorem cmac_loop_eq_chain (k : Block) (msg : List Byte) (n : Nat) :
    forRange 0 n (fun i x => aes k (x ^^^ blockOfBytes ((msg.drop (16 * i)).take 16))) 0#128 = cmacChain k msg n := by
  induction n with
  | zero => simp [cmacChain]
  | succ n ih => rw [forRange_succ (Nat.zero_le n), ih]; rfl

/-- The number of blocks before the last. -/
theorem cmac_chained_blocks (n : Nat) : (if n = 0 then 1 else ceilDiv n 16) - 1 = (n - 1) / 16 := by
  unfold ceilDiv; split <;> omega

end Sys2Proof.Machine
end

