-- ==== Sys2Proof/Laws/PerInstr.lean ====
section
/-! SUPPORT. The statement families made per instruction, one lemma per constructor. -/

namespace Sys2Proof.Laws

open Sys2Proof.Machine

/-- An opcode and operand bits that are 0 where the row's mask asks for 0 select the row (30_encoding.md R93). -/
theorem opcode_append_selects {m : Mnemonic} {x : BitVec 24} (reserved : BitVec 24) (hx : x &&& reserved = 0#24)
    (hm : tableMask m = 0xFF#8 ++ reserved) (hv : tableMatch m = m.opcode ++ 0#24) :
    (m.opcode ++ x) &&& tableMask m = tableMatch m := by
  rw [hm, hv, BitVec.and_append, hx, show (0xFF#8) = BitVec.allOnes 8 from rfl, BitVec.and_allOnes]

/-- Two fields that are 0 under their masks are 0 together. -/
theorem append_and_eq_zero {a b : Nat} {x m : BitVec a} {y n : BitVec b} (hx : x &&& m = 0#a) (hy : y &&& n = 0#b) :
    (x ++ y) &&& (m ++ n) = 0#(a + b) := by
  rw [BitVec.and_append, hx, hy]
  apply BitVec.eq_of_toNat_eq
  simp

/-- An instruction's word has the bits of its row of the opcode table (R76, R93): the row's match under its mask. -/
def EncodedWordSelectsRow.Statement (i : Instr) : Prop :=
  encode i &&& tableMask i.mnemonic = tableMatch i.mnemonic

theorem EncodedWordSelectsRow.nop : EncodedWordSelectsRow.Statement .nop := by
  unfold EncodedWordSelectsRow.Statement
  decide

theorem EncodedWordSelectsRow.epcLoad : EncodedWordSelectsRow.Statement .epcLoad := by
  unfold EncodedWordSelectsRow.Statement
  decide

theorem EncodedWordSelectsRow.epcCommit : EncodedWordSelectsRow.Statement .epcCommit := by
  unfold EncodedWordSelectsRow.Statement
  decide

theorem EncodedWordSelectsRow.aesBlock : EncodedWordSelectsRow.Statement .aesBlock := by
  unfold EncodedWordSelectsRow.Statement
  decide

theorem EncodedWordSelectsRow.cmacSubkeys : EncodedWordSelectsRow.Statement .cmacSubkeys := by
  unfold EncodedWordSelectsRow.Statement
  decide

theorem EncodedWordSelectsRow.cmac (start : BitVec 8) (len : BitVec 9) (ivp : BitVec 1) :
    EncodedWordSelectsRow.Statement (.cmac start len ivp) :=
  opcode_append_selects (m := .cmac) (0x3F#6 ++ 0#1 ++ 0#9 ++ 0#8)
    (append_and_eq_zero (append_and_eq_zero (append_and_eq_zero BitVec.zero_and BitVec.and_zero) BitVec.and_zero) BitVec.and_zero) (by decide) (by decide)

theorem EncodedWordSelectsRow.burstClear (n : BitVec 9) :
    EncodedWordSelectsRow.Statement (.burstClear n) :=
  opcode_append_selects (m := .burstClear) (0x7FFF#15 ++ 0#9)
    (append_and_eq_zero BitVec.zero_and BitVec.and_zero) (by decide) (by decide)

theorem EncodedWordSelectsRow.writeSubPacketBit (r : BitVec 9) (bit : BitVec 1) :
    EncodedWordSelectsRow.Statement (.writeSubPacketBit r bit) :=
  opcode_append_selects (m := .writeSubPacketBit) (0x3FFF#14 ++ 0#1 ++ 0#9)
    (append_and_eq_zero (append_and_eq_zero BitVec.zero_and BitVec.and_zero) BitVec.and_zero) (by decide) (by decide)

theorem EncodedWordSelectsRow.writeBitIdx (r : BitVec 9) (idx : BitVec 6) (bit : BitVec 1) :
    EncodedWordSelectsRow.Statement (.writeBitIdx r idx bit) :=
  opcode_append_selects (m := .writeBitIdx) (0xFF#8 ++ 0#1 ++ 0#6 ++ 0#9)
    (append_and_eq_zero (append_and_eq_zero (append_and_eq_zero BitVec.zero_and BitVec.and_zero) BitVec.and_zero) BitVec.and_zero) (by decide) (by decide)

theorem EncodedWordSelectsRow.addMidamble (r : BitVec 9) :
    EncodedWordSelectsRow.Statement (.addMidamble r) :=
  opcode_append_selects (m := .addMidamble) (0x7FFF#15 ++ 0#9)
    (append_and_eq_zero BitVec.zero_and BitVec.and_zero) (by decide) (by decide)

theorem EncodedWordSelectsRow.diffMsk (r : BitVec 9) :
    EncodedWordSelectsRow.Statement (.diffMsk r) :=
  opcode_append_selects (m := .diffMsk) (0x7FFF#15 ++ 0#9)
    (append_and_eq_zero BitVec.zero_and BitVec.and_zero) (by decide) (by decide)

theorem EncodedWordSelectsRow.puncture (r : BitVec 9) :
    EncodedWordSelectsRow.Statement (.puncture r) :=
  opcode_append_selects (m := .puncture) (0x7FFF#15 ++ 0#9)
    (append_and_eq_zero BitVec.zero_and BitVec.and_zero) (by decide) (by decide)

theorem EncodedWordSelectsRow.ctrCrypt (start : BitVec 8) (len : BitVec 9) :
    EncodedWordSelectsRow.Statement (.ctrCrypt start len) :=
  opcode_append_selects (m := .ctrCrypt) (0x7F#7 ++ 0#9 ++ 0#8)
    (append_and_eq_zero (append_and_eq_zero BitVec.zero_and BitVec.and_zero) BitVec.and_zero) (by decide) (by decide)

theorem EncodedWordSelectsRow.macEncode (len : BitVec 9) (mpf : BitVec 1) (mpfv : BitVec 8) :
    EncodedWordSelectsRow.Statement (.macEncode len mpf mpfv) :=
  opcode_append_selects (m := .macEncode) (0x3F#6 ++ 0#8 ++ 0#1 ++ 0#9)
    (append_and_eq_zero (append_and_eq_zero (append_and_eq_zero BitVec.zero_and BitVec.and_zero) BitVec.and_zero) BitVec.and_zero) (by decide) (by decide)

theorem EncodedWordSelectsRow.numBursts (n : BitVec 9) :
    EncodedWordSelectsRow.Statement (.numBursts n) :=
  opcode_append_selects (m := .numBursts) (0x7FFF#15 ++ 0#9)
    (append_and_eq_zero BitVec.zero_and BitVec.and_zero) (by decide) (by decide)

theorem EncodedWordSelectsRow.phyAssemble (mlen : BitVec 9) (mmode : BitVec 2) :
    EncodedWordSelectsRow.Statement (.phyAssemble mlen mmode) :=
  opcode_append_selects (m := .phyAssemble) (0x3FF#10 ++ 0#2 ++ 0x7#3 ++ 0#9)
    (append_and_eq_zero (append_and_eq_zero (append_and_eq_zero BitVec.zero_and BitVec.and_zero) BitVec.zero_and) BitVec.and_zero) (by decide) (by decide)

theorem EncodedWordSelectsRow.crc8 (bstart blen : BitVec 12) :
    EncodedWordSelectsRow.Statement (.crc8 bstart blen) :=
  opcode_append_selects (m := .crc8) (0#12 ++ 0#12)
    (append_and_eq_zero BitVec.and_zero BitVec.and_zero) (by decide) (by decide)

theorem EncodedWordSelectsRow.whiten (n : BitVec 9) :
    EncodedWordSelectsRow.Statement (.whiten n) :=
  opcode_append_selects (m := .whiten) (0x7FFF#15 ++ 0#9)
    (append_and_eq_zero BitVec.zero_and BitVec.and_zero) (by decide) (by decide)

theorem EncodedWordSelectsRow.convInterleave (n : BitVec 9) :
    EncodedWordSelectsRow.Statement (.convInterleave n) :=
  opcode_append_selects (m := .convInterleave) (0x7FFF#15 ++ 0#9)
    (append_and_eq_zero BitVec.zero_and BitVec.and_zero) (by decide) (by decide)

theorem EncodedWordSelectsRow.tsmaAssign (nb : BitVec 9) (pat : BitVec 3) :
    EncodedWordSelectsRow.Statement (.tsmaAssign nb pat) :=
  opcode_append_selects (m := .tsmaAssign) (0xFFF#12 ++ 0#3 ++ 0#9)
    (append_and_eq_zero (append_and_eq_zero BitVec.zero_and BitVec.and_zero) BitVec.and_zero) (by decide) (by decide)

theorem EncodedWordSelectsRow.lfsrStep : EncodedWordSelectsRow.Statement .lfsrStep := by
  unfold EncodedWordSelectsRow.Statement
  decide

theorem EncodedWordSelectsRow.calcF0 : EncodedWordSelectsRow.Statement .calcF0 := by
  unfold EncodedWordSelectsRow.Statement
  decide

theorem EncodedWordSelectsRow.crc2 (bstart blen : BitVec 12) :
    EncodedWordSelectsRow.Statement (.crc2 bstart blen) :=
  opcode_append_selects (m := .crc2) (0#12 ++ 0#12)
    (append_and_eq_zero BitVec.and_zero BitVec.and_zero) (by decide) (by decide)

theorem EncodedWordSelectsRow.syncEncode (pat : BitVec 3) :
    EncodedWordSelectsRow.Statement (.syncEncode pat) :=
  opcode_append_selects (m := .syncEncode) (0x1FFFFF#21 ++ 0#3)
    (append_and_eq_zero BitVec.zero_and BitVec.and_zero) (by decide) (by decide)

theorem EncodedWordSelectsRow.tsmaPattern (counter : BitVec 24) :
    EncodedWordSelectsRow.Statement (.tsmaPattern counter) :=
  opcode_append_selects (m := .tsmaPattern) (0#24)
    (BitVec.and_zero) (by decide) (by decide)

theorem EncodedWordSelectsRow.phyEncode (mlen : BitVec 9) (pat : BitVec 3) (mmode : BitVec 2) :
    EncodedWordSelectsRow.Statement (.phyEncode mlen pat mmode) :=
  opcode_append_selects (m := .phyEncode) (0x3FF#10 ++ 0#2 ++ 0#3 ++ 0#9)
    (append_and_eq_zero (append_and_eq_zero (append_and_eq_zero BitVec.zero_and BitVec.and_zero) BitVec.and_zero) BitVec.and_zero) (by decide) (by decide)

theorem EncodedWordSelectsRow.send (len : BitVec 9) (prio : BitVec 1) (mpfv : BitVec 8) :
    EncodedWordSelectsRow.Statement (.send len prio mpfv) :=
  opcode_append_selects (m := .send) (0x3F#6 ++ 0#8 ++ 0#1 ++ 0#9)
    (append_and_eq_zero (append_and_eq_zero (append_and_eq_zero BitVec.zero_and BitVec.and_zero) BitVec.and_zero) BitVec.and_zero) (by decide) (by decide)

end Sys2Proof.Laws
end

