-- ==== Sys2Proof/Tests/Slice0.lean ====
section
/-! SUPPORT. Tests of the model by named theorems: what the assembler refuses, the decoding of words written out from the
tables of 30_encoding.md, the spec's own examples and vectors, and for each statement with hypotheses a state and
operands that meet them. -/

namespace Sys2Proof.Tests

set_option Elab.async false

open Sys2Proof.Machine

/-! ## States -/

/-- Both locks set (10_state.md R28), everything else as after reset. -/
def locked : State :=
  { State.reset with
    ctrl := { keyLock := true, euiLock := true, addrLong := false, syncEn := false, shortOvrEn := false } }

/-- The region parameters of 95_test_vectors.md, and `ctrl` as given. -/
def region (s : State) : State := { s with chanA := 14224261, chanB := 14224261, bC := 39, bC0 := 39, upg := 1, nCo := 3 }

/-- Locked, with a legal region. -/
def ready : State := region locked

/-- A burst with a full cursor. -/
def fullBurst : BurstRec := { bits := 0, cursor := 24, carrier := 0, trb := 0 }

/-- A state a command left, seen through a test on it. -/
def next (o : Host.Outcome State Fault Refusal) (p : State → Bool) : Bool :=
  match o with
  | .next t => p t
  | .fault _ => false
  | .refused _ => false

/-! ## The assembler's checks (30_encoding.md R98): each refuses -/

theorem test_wf_operand_missing : (⟨.cmac, [0, 16]⟩ : AsmCommand).wellFormed = false := by decide

theorem test_wf_operand_extra : (⟨.nop, [0]⟩ : AsmCommand).wellFormed = false := by decide

theorem test_wf_r_field0 : (⟨.addMidamble, [512]⟩ : AsmCommand).wellFormed = false := by decide

theorem test_wf_r_accepts : (⟨.addMidamble, [511]⟩ : AsmCommand).wellFormed = true := by decide

theorem test_wf_rb_field0 : (⟨.writeSubPacketBit, [512, 0]⟩ : AsmCommand).wellFormed = false := by decide

theorem test_wf_rb_field1 : (⟨.writeSubPacketBit, [0, 2]⟩ : AsmCommand).wellFormed = false := by decide

theorem test_wf_rb_accepts : (⟨.writeSubPacketBit, [511, 1]⟩ : AsmCommand).wellFormed = true := by decide

theorem test_wf_rib_field0 : (⟨.writeBitIdx, [512, 0, 0]⟩ : AsmCommand).wellFormed = false := by decide

theorem test_wf_rib_field1 : (⟨.writeBitIdx, [0, 64, 0]⟩ : AsmCommand).wellFormed = false := by decide

theorem test_wf_rib_field2 : (⟨.writeBitIdx, [0, 0, 2]⟩ : AsmCommand).wellFormed = false := by decide

theorem test_wf_rib_accepts : (⟨.writeBitIdx, [511, 63, 1]⟩ : AsmCommand).wellFormed = true := by decide

theorem test_wf_sl_field0 : (⟨.cmac, [256, 0, 0]⟩ : AsmCommand).wellFormed = false := by decide

theorem test_wf_sl_field1 : (⟨.cmac, [0, 512, 0]⟩ : AsmCommand).wellFormed = false := by decide

theorem test_wf_sl_field2 : (⟨.cmac, [0, 0, 2]⟩ : AsmCommand).wellFormed = false := by decide

theorem test_wf_sl_accepts : (⟨.cmac, [255, 511, 1]⟩ : AsmCommand).wellFormed = true := by decide

theorem test_wf_s_field0 : (⟨.ctrCrypt, [256, 0]⟩ : AsmCommand).wellFormed = false := by decide

theorem test_wf_s_field1 : (⟨.ctrCrypt, [0, 512]⟩ : AsmCommand).wellFormed = false := by decide

theorem test_wf_s_accepts : (⟨.ctrCrypt, [255, 511]⟩ : AsmCommand).wellFormed = true := by decide

theorem test_wf_l_field0 : (⟨.burstClear, [512]⟩ : AsmCommand).wellFormed = false := by decide

theorem test_wf_l_accepts : (⟨.burstClear, [511]⟩ : AsmCommand).wellFormed = true := by decide

theorem test_wf_a_field0 : (⟨.phyAssemble, [512, 0]⟩ : AsmCommand).wellFormed = false := by decide

theorem test_wf_a_field1 : (⟨.phyAssemble, [0, 4]⟩ : AsmCommand).wellFormed = false := by decide

theorem test_wf_a_accepts : (⟨.phyAssemble, [511, 3]⟩ : AsmCommand).wellFormed = true := by decide

theorem test_wf_br_field0 : (⟨.crc8, [4096, 0]⟩ : AsmCommand).wellFormed = false := by decide

theorem test_wf_br_field1 : (⟨.crc8, [0, 4096]⟩ : AsmCommand).wellFormed = false := by decide

theorem test_wf_br_accepts : (⟨.crc8, [4095, 4095]⟩ : AsmCommand).wellFormed = true := by decide

theorem test_wf_mac_field0 : (⟨.macEncode, [512, 0, 0]⟩ : AsmCommand).wellFormed = false := by decide

theorem test_wf_mac_field1 : (⟨.macEncode, [0, 2, 0]⟩ : AsmCommand).wellFormed = false := by decide

theorem test_wf_mac_field2 : (⟨.macEncode, [0, 0, 256]⟩ : AsmCommand).wellFormed = false := by decide

theorem test_wf_mac_accepts : (⟨.macEncode, [511, 1, 255]⟩ : AsmCommand).wellFormed = true := by decide

theorem test_wf_phy_field0 : (⟨.phyEncode, [512, 0, 0]⟩ : AsmCommand).wellFormed = false := by decide

theorem test_wf_phy_field1 : (⟨.phyEncode, [0, 8, 0]⟩ : AsmCommand).wellFormed = false := by decide

theorem test_wf_phy_field2 : (⟨.phyEncode, [0, 0, 4]⟩ : AsmCommand).wellFormed = false := by decide

theorem test_wf_phy_accepts : (⟨.phyEncode, [511, 7, 3]⟩ : AsmCommand).wellFormed = true := by decide

theorem test_wf_t_field0 : (⟨.tsmaAssign, [512, 0]⟩ : AsmCommand).wellFormed = false := by decide

theorem test_wf_t_field1 : (⟨.tsmaAssign, [0, 8]⟩ : AsmCommand).wellFormed = false := by decide

theorem test_wf_t_accepts : (⟨.tsmaAssign, [511, 7]⟩ : AsmCommand).wellFormed = true := by decide

theorem test_wf_p_field0 : (⟨.syncEncode, [8]⟩ : AsmCommand).wellFormed = false := by decide

theorem test_wf_p_accepts : (⟨.syncEncode, [7]⟩ : AsmCommand).wellFormed = true := by decide

theorem test_wf_c_field0 : (⟨.tsmaPattern, [16777216]⟩ : AsmCommand).wellFormed = false := by decide

theorem test_wf_c_accepts : (⟨.tsmaPattern, [16777215]⟩ : AsmCommand).wellFormed = true := by decide

theorem test_wf_send_field0 : (⟨.send, [512, 0, 0]⟩ : AsmCommand).wellFormed = false := by decide

theorem test_wf_send_field1 : (⟨.send, [0, 2, 0]⟩ : AsmCommand).wellFormed = false := by decide

theorem test_wf_send_field2 : (⟨.send, [0, 0, 256]⟩ : AsmCommand).wellFormed = false := by decide

theorem test_wf_send_accepts : (⟨.send, [511, 1, 255]⟩ : AsmCommand).wellFormed = true := by decide

theorem test_assemble_refuses : (⟨.macEncode, [512, 0, 0]⟩ : AsmCommand).assemble = none := by decide

theorem test_assemble_writes_word :
    (⟨.writeBitIdx, [0, 39, 1]⟩ : AsmCommand).assemble = some 0x2200CE00#32 := by decide

/-! ## Decoding: a word for each row of the opcode map, its bits written from bit 31 down (30_encoding.md R76 to R93) -/

theorem test_decode_nop : decode 0b00000000000000000000000000000000#32 = .ok .nop := by decide

theorem test_decode_epcLoad : decode 0b00000001000000000000000000000000#32 = .ok .epcLoad := by decide

theorem test_decode_epcCommit : decode 0b00000010000000000000000000000000#32 = .ok .epcCommit := by decide

theorem test_decode_aesBlock : decode 0b00010000000000000000000000000000#32 = .ok .aesBlock := by decide

theorem test_decode_cmacSubkeys : decode 0b00010001000000000000000000000000#32 = .ok .cmacSubkeys := by decide

theorem test_decode_cmac : decode 0b00010010000000110010110010100101#32 = .ok (.cmac 165 300 1) := by decide

theorem test_decode_burstClear : decode 0b00100000000000000000000100000100#32 = .ok (.burstClear 260) := by decide

theorem test_decode_writeSubPacketBit :
    decode 0b00100001000000000000001100000011#32 = .ok (.writeSubPacketBit 259 1) := by decide

theorem test_decode_writeBitIdx :
    decode 0b00100010000000001100111100000010#32 = .ok (.writeBitIdx 258 39 1) := by decide

theorem test_decode_addMidamble : decode 0b00100011000000000000000100000001#32 = .ok (.addMidamble 257) := by decide

theorem test_decode_diffMsk : decode 0b00100100000000000000000000011000#32 = .ok (.diffMsk 24) := by decide

theorem test_decode_puncture : decode 0b00100101000000000000000000000101#32 = .ok (.puncture 5) := by decide

theorem test_decode_ctrCrypt : decode 0b00110000000000010000010100000110#32 = .ok (.ctrCrypt 6 261) := by decide

theorem test_decode_macEncode : decode 0b00110001000000010110101000000011#32 = .ok (.macEncode 3 1 90) := by decide

theorem test_decode_numBursts : decode 0b01000000000000000000000001000010#32 = .ok (.numBursts 66) := by decide

theorem test_decode_phyAssemble : decode 0b01000001000000000010000000001101#32 = .ok (.phyAssemble 13 2) := by decide

theorem test_decode_crc8 : decode 0b01000010000000000001100000010111#32 = .ok (.crc8 2071 1) := by decide

theorem test_decode_whiten : decode 0b01000011000000000000000000011000#32 = .ok (.whiten 24) := by decide

theorem test_decode_convInterleave :
    decode 0b01000100000000000000000100000011#32 = .ok (.convInterleave 259) := by decide

theorem test_decode_tsmaAssign : decode 0b01010000000000000000110000011001#32 = .ok (.tsmaAssign 25 6) := by decide

theorem test_decode_lfsrStep : decode 0b01010001000000000000000000000000#32 = .ok .lfsrStep := by decide

theorem test_decode_calcF0 : decode 0b01010010000000000000000000000000#32 = .ok .calcF0 := by decide

theorem test_decode_crc2 : decode 0b01010011000000001110000000010100#32 = .ok (.crc2 20 14) := by decide

theorem test_decode_syncEncode : decode 0b01010100000000000000000000000011#32 = .ok (.syncEncode 3) := by decide

theorem test_decode_tsmaPattern :
    decode 0b01010101111111101101110010111010#32 = .ok (.tsmaPattern 16702650) := by decide

theorem test_decode_phyEncode : decode 0b01100000000000000001101001000010#32 = .ok (.phyEncode 66 5 1) := by decide

theorem test_decode_send : decode 0b01100001000000110000111000000011#32 = .ok (.send 3 1 195) := by decide

/-- R94: an OPCODE not in R93. -/
theorem test_decode_undefined : decode 0x03000000#32 = .error .undefinedOpcode := by decide

theorem test_decode_undefined_high : decode 0xFF000000#32 = .error .undefinedOpcode := by decide

/-- R94: the lowest reserved bit of format N. -/
theorem test_decode_reserved_0 : decode 0x00000001#32 = .error .reservedBit := by decide

/-- R94: the lowest reserved bit of format R. -/
theorem test_decode_reserved_1 : decode 0x25000200#32 = .error .reservedBit := by decide

/-- R94: the lowest reserved bit of format RB. -/
theorem test_decode_reserved_2 : decode 0x21000400#32 = .error .reservedBit := by decide

/-- R94: the lowest reserved bit of format RIB. -/
theorem test_decode_reserved_3 : decode 0x22010000#32 = .error .reservedBit := by decide

/-- R94: the lowest reserved bit of format SL. -/
theorem test_decode_reserved_4 : decode 0x12040000#32 = .error .reservedBit := by decide

/-- R94: the lowest reserved bit of format S. -/
theorem test_decode_reserved_5 : decode 0x30020000#32 = .error .reservedBit := by decide

/-- R94: a reserved bit of format L. -/
theorem test_decode_reserved_6 : decode 0x43800000#32 = .error .reservedBit := by decide

/-- R94: the lowest reserved bit of format A, the gap. -/
theorem test_decode_reserved_7 : decode 0x41000200#32 = .error .reservedBit := by decide

/-- R94: the lowest reserved bit of format A. -/
theorem test_decode_reserved_8 : decode 0x41004000#32 = .error .reservedBit := by decide

/-- R94: a reserved bit of format MAC. -/
theorem test_decode_reserved_9 : decode 0x31801403#32 = .error .reservedBit := by decide

/-- R94: the lowest reserved bit of format PHY. -/
theorem test_decode_reserved_10 : decode 0x60004000#32 = .error .reservedBit := by decide

/-- R94: the lowest reserved bit of format T. -/
theorem test_decode_reserved_11 : decode 0x50001000#32 = .error .reservedBit := by decide

/-- R94: the lowest reserved bit of format P. -/
theorem test_decode_reserved_12 : decode 0x54000008#32 = .error .reservedBit := by decide

/-- R94: the lowest reserved bit of format SEND. -/
theorem test_decode_reserved_13 : decode 0x61040000#32 = .error .reservedBit := by decide

/-! ## The spec's examples: one command on a small state -/

/-- R100: NOP after a failed command. -/
theorem test_nop_keeps_events :
    next (exec .nop { State.reset with status := ⟨5, 3⟩, events := ⟨false, false, true⟩ }) (fun t => t.status = ⟨0, 0⟩ ∧ t.events.err = true) = true := by decide

/-- R101: the source's example, persisted 0x0000FF. -/
theorem test_epcLoad_adds_window :
    next (exec .epcLoad { State.reset with epcLoadval := 0x0000FF }) (fun t => t.epc = 0x1FF ∧ t.result = 0x1FF) = true := by decide

/-- R101: the sentinel starts the counter at 0. -/
theorem test_epcLoad_sentinel :
    next (exec .epcLoad { State.reset with epc := 7 }) (fun t => t.epc = 0 ∧ t.result = 0) = true := by decide

/-- R104: the example with EPC 0x01012345. -/
theorem test_epcCommit_low_bits :
    next (exec .epcCommit { State.reset with epc := 0x01012345 }) (fun t => t.epcStore = 0x012345 ∧ t.result = 0x12345 ∧ t.events.persistReq = true) = true := by decide

/-- R112: the corner case of a zero key and block. -/
theorem test_aesBlock_zero_key :
    next (exec .aesBlock State.reset) (fun t => t.block .aesOut = 0x66e94bd4ef8a2c3b884cfa59ca342b2e) = true := by decide +kernel

/-- 95_test_vectors.md L1.1: the source's AES vector. -/
theorem test_aes_source_vector :
    aes 0x2b7e151628aed2a6abf7158809cf4f3c 0x6bc1bee22e409f96e93d7e117393172a =
      0x3ad77bb40d7a3660a89ecaf32466ef97 := by decide +kernel

/-- L2: the subkeys of a zero key. -/
theorem test_cmacSubkeys_zero_key :
    next (exec .cmacSubkeys State.reset) (fun t => t.block .k1 = 0xcdd297a9df1458771099f4b39468565c ∧
      t.block .k2 = 0x9ba52f53be28b0ee2133e96728d0ac3f) = true := by decide +kernel

/-- L2: a MIC over nine bytes of MPDU behind the IV. -/
theorem test_cmac_with_iv :
    next (exec (.cmac 0 9 1) { locked with mem := [(0x306, 1), (0x307, 2), (0x308, 3)] }) (fun t => t.result = 0x22FB0262) = true := by decide +kernel

/-- R118: START + LEN = 257. -/
theorem test_cmac_past_mpdu :
    next (exec (.cmac 255 2 0) State.reset) (fun t => t.status = ⟨6, 0x12⟩ ∧ t.events.err = true) = true := by decide

/-- R120: record N is left. -/
theorem test_burstClear_leaves_next :
    next (exec (.burstClear 2) (region (State.reset.setBurst 2 fullBurst))) (fun t => t.burst 2 = fullBurst) = true := by decide +kernel

/-- R120: record N-1 is cleared. -/
theorem test_burstClear_clears_last :
    next (exec (.burstClear 2) (State.reset.setBurst 1 fullBurst)) (fun t => t.burst 1 = BurstRec.cleared) = true := by decide +kernel

/-- R121: the first bit of an even record goes to payload position 11. -/
theorem test_writeSubPacketBit_first :
    next (exec (.writeSubPacketBit 0 1) State.reset) (fun t => (t.burst 0).bits = 0x0004000000 ∧ t.result = 13 ∧ (t.burst 0).cursor = 1) = true := by decide +kernel

/-- R121: a 25th bit is refused. -/
theorem test_writeSubPacketBit_full :
    next (exec (.writeSubPacketBit 0 1) (State.reset.setBurst 0 fullBurst)) (fun t => t.status = ⟨6, 0x21⟩) = true := by decide +kernel

/-- R122: the example with IDX 39. -/
theorem test_writeBitIdx_last :
    next (exec (.writeBitIdx 0 39 1) State.reset) (fun t => (t.burst 0).bits = 0x0000000001 ∧ (t.burst 0).cursor = 0) = true := by decide +kernel

/-- R123: the example with record 0. -/
theorem test_addMidamble_core :
    next (exec (.addMidamble 0) State.reset) (fun t => (t.burst 0).bits = 0x0001d08000) = true := by decide +kernel

/-- R123: the example with record 24. -/
theorem test_addMidamble_extension :
    next (exec (.addMidamble 24) State.reset) (fun t => (t.burst 24).bits = 0x00013e8000) = true := by decide +kernel

/-- 95_test_vectors.md: DIFF_MSK of a lone core midamble. -/
theorem test_diffMsk_after_midamble :
    next (exec (.diffMsk 0) (State.reset.setBurst 0 ⟨0x0001d08000, 0, 0, 0⟩)) (fun t => (t.burst 0).bits = 0x800160ffff) = true := by decide +kernel

/-- R126: the example. -/
theorem test_puncture_bit_length :
    next (exec (.puncture 5) State.reset) (fun t => (t.burst 5).carrier = 0xFFFF ∧ t.readLoc (.burstBitLength 5) = 0) = true := by decide +kernel

/-- R133: the example, keystream 66 e9 4b …. -/
theorem test_ctrCrypt_vector :
    next (exec (.ctrCrypt 6 3) { locked with mem := [(0x306, 1), (0x307, 2), (0x308, 3)] }) (fun t => t.mem.take 3 = [(0x306, 0x67), (0x307, 0xeb), (0x308, 0x48)] ∧ t.result = 1) = true := by decide +kernel

/-- L2.6: the ciphertext and MIC of a three-byte payload. -/
theorem test_macEncode_vector :
    next (exec (.macEncode 3 0 0) { locked with mem := [(0x200, 1), (0x201, 2), (0x202, 3)] }) (fun t => t.bytes .mpdu 6 7 = [0x67, 0xeb, 0x48, 0xed, 0xe9, 0xb2, 0x86] ∧ t.epc = 1) = true := by decide +kernel

/-- R134: MPF = 0 with an MPF value. -/
theorem test_macEncode_mpf_mismatch :
    next (exec (.macEncode 3 0 5) locked) (fun t => t.status = ⟨6, 0x31⟩ ∧ t.epc = 0) = true := by decide

/-- R137: the example. -/
theorem test_numBursts_example :
    next (exec (.numBursts 66) State.reset) (fun t => t.result = 70 ∧ t.numBursts = 0) = true := by decide

/-- R137: N = 256. -/
theorem test_numBursts_too_long :
    next (exec (.numBursts 256) State.reset) (fun t => t.status = ⟨2, 0x40⟩ ∧ t.result = 0) = true := by decide +kernel

/-- L2: the MPDU 01 … 0d, MMODE 2. -/
theorem test_phyAssemble_crcs :
    next (exec (.phyAssemble 13 2) { State.reset with
      mem := (List.range 13).map (fun i => (0x300 + i, BitVec.ofNat 8 (i + 1))) }) (fun t => t.crcHdr = 0x90 ∧ t.crcPay = 0x07 ∧ t.byte .phybuf 23 = 0x80) = true := by decide +kernel

/-- R139: the example. -/
theorem test_crc8_sixteen_zero_bits :
    next (exec (.crc8 0 16) State.reset) (fun t => t.result = 0xB1) = true := by decide +kernel

/-- R139: one bit 1. -/
theorem test_crc8_one_bit :
    next (exec (.crc8 0 1) { State.reset with mem := [(0x400, 0x80)] }) (fun t => t.result = 0xFE) = true := by decide

/-- L2: 24 zero bytes. -/
theorem test_whiten_zero_buffer :
    next (exec (.whiten 24) State.reset) (fun t => t.whitenLfsr = 0xF83F ∧ t.byte .phybuf 0 = 0x83 ∧ t.byte .phybuf 23 = 0) = true := by decide +kernel

/-- L2: the impulse at stream bit 0. -/
theorem test_convInterleave_impulse :
    next (exec (.convInterleave 24) { State.reset with mem := [(0x400, 0x80)] }) (fun t => (t.burst 0).bits = 0x0008000000 ∧ (t.burst 1).bits = 0x0000001000 ∧ (t.burst 4).bits = 0) = true := by decide +kernel

/-- L2: one extension burst from the seed 0xCA76. -/
theorem test_tsmaAssign_extension :
    next (exec (.tsmaAssign 25 0) { region State.reset with crcHdr := 0xca, crcPay := 0x76 }) (fun t => (t.burst 24).carrier = 39 ∧ (t.burst 23).trb = 396 ∧ (t.burst 0).carrier = 195) = true := by decide +kernel

/-- R149: the example. -/
theorem test_lfsrStep_example :
    next (exec .lfsrStep { State.reset with tsmaLfsr := 0xCA76 }) (fun t => t.tsmaLfsr = 0x653B ∧ t.result = 0x653B) = true := by decide

/-- R149: 1 gives 0xB4F3. -/
theorem test_lfsrStep_one :
    next (exec .lfsrStep { State.reset with tsmaLfsr := 1 }) (fun t => t.tsmaLfsr = 0xB4F3) = true := by decide

/-- R153: the example. -/
theorem test_calcF0_example :
    next (exec .calcF0 { region State.reset with crcPay := 0x76 }) (fun t => t.f0 = 14223793 ∧ t.result = 14223793) = true := by decide

/-- R153: CRC_PAY ≥ 0x80 selects CHAN_B (L2). -/
theorem test_calcF0_channel_b :
    next (exec .calcF0 { region State.reset with crcPay := 0x80, chanB := 14300000 }) (fun t => t.f0 = 14299493) = true := by decide

/-- R155: the example. -/
theorem test_crc2_example :
    next (exec (.crc2 20 14) { State.reset with
      mem := [(0x400, 0x33), (0x401, 0x3d), (0x402, 0x33), (0x403, 0xab), (0x404, 0x40)] }) (fun t => t.result = 3) = true := by decide +kernel

/-- R156: scenario 4, pattern 3, address byte 0xAB, UPG2. -/
theorem test_syncEncode_vector :
    next (exec (.syncEncode 3) { ready with upg := 2, mem := [(0x117, 0xab)] }) (fun t => (t.burst 259).bits = 0x888a774c97 ∧ (t.burst 259).carrier = 936 ∧ t.result = 3) = true := by decide +kernel

/-- R159: the example. -/
theorem test_tsmaPattern_last :
    next (exec (.tsmaPattern 14) State.reset) (fun t => t.result = 5) = true := by decide

/-- R159: the example. -/
theorem test_tsmaPattern_wraps :
    next (exec (.tsmaPattern 16) State.reset) (fun t => t.result = 1) = true := by decide

/-- L2: an empty MPDU. -/
theorem test_phyEncode_empty_mpdu :
    next (exec (.phyEncode 0 0 0) (region State.reset)) (fun t => t.result = 14223832 ∧ t.numBursts = 24 ∧ t.events.outValid = true) = true := by decide +kernel

/-- R161: failure clears F0. -/
theorem test_phyEncode_failure_clears_f0 :
    next (exec (.phyEncode 13 0 0) { State.reset with f0 := 9 }) (fun t => t.status = ⟨1, 0x60⟩ ∧ t.f0 = 0) = true := by decide

/-- 95_test_vectors.md: the telegram of a three-byte payload. -/
theorem test_send_scenario :
    next (exec (.send 3 0 0) { ready with mem := [(0x200, 1), (0x201, 2), (0x202, 3)] }) (fun t => t.result = 14223793 ∧ t.epc = 1 ∧ t.events.outValid = true) = true := by decide +kernel

/-- R162: the locks come first. -/
theorem test_send_without_locks :
    next (exec (.send 3 0 0) (region State.reset)) (fun t => t.status = ⟨1, 0x61⟩ ∧ t.epc = 0) = true := by decide

/-! ## Steps: host accesses, a command by a write to CMD -/

/-- R96: the write of a command word runs it. -/
theorem test_step_runs_command :
    next (step (State.reset.withFetchWord 32 0x40000042)) (fun t => t.result = 70) = true := by decide

/-- R94: an illegal word. -/
theorem test_step_illegal_word :
    next (step (State.reset.withFetchWord 32 0x03000000))
      (fun t => t.status = ⟨5, 3⟩ ∧ t.events.err = true) = true := by decide

/-- R65: a 32-bit read at 0x001 is a bus error with data 0. -/
theorem test_step_bus_error :
    next (step (State.reset.before (.read 0x001 .word))) (fun t => t.busResponse = some ⟨true, 0⟩) = true := by decide

/-- R48: KEY reads as 0. -/
theorem test_step_key_read :
    next (step ({ State.reset with mem := [(0x100, 0xAA)] }.before (.read 0x100 .byte)))
      (fun t => t.busResponse = some ⟨false, 0⟩) = true := by decide

/-- R28: the locks are set-only. -/
theorem test_step_locks_stay :
    next (step (locked.before (.write 0x010 .word 0))) (fun t => t.ctrl.keyLock && t.ctrl.euiLock) = true := by decide

/-- R187: the platform's reset. -/
theorem test_step_reset : next (step (ready.before .reset)) (fun t => t.upg = 0 ∧ t.epcLoadval = 0xFFFFFF) = true := by
  decide +kernel

/-! ## Witnesses: states and operands that meet the hypotheses of each statement, each clause at the bounds of its range -/

/-- DecodeAndEncodeAgree, StepRunsDecodedCommand: a word that decodes. -/
theorem witness_word_decodes : decode 0x20000104#32 = .ok (.burstClear 260) := by decide

/-- AssemblerAcceptsExactlyFittingOperands: the largest operand that fits, the next value, an operand missing, one too
many. -/
theorem witness_assembler :
    OperandsFit ⟨.burstClear, [511]⟩ ∧ ¬OperandsFit ⟨.burstClear, [512]⟩ ∧ ¬OperandsFit ⟨.burstClear, []⟩ ∧
      ¬OperandsFit ⟨.nop, [0]⟩ := by
  decide

/-- StepReportsIllegalWord: an undefined opcode, a reserved bit. -/
theorem witness_illegal_words :
    (∀ m ∈ Mnemonic.all, 0x03000000#32 &&& tableMask m ≠ tableMatch m) ∧
      ∀ m ∈ Mnemonic.all, 0x00000001#32 &&& tableMask m ≠ tableMatch m := by decide

/-- Every mnemonic is one of the list. -/
theorem mnemonic_mem_all (m : Mnemonic) : m ∈ Mnemonic.all := by cases m <;> decide

/-- The same for every mnemonic, as StepReportsIllegalWord asks. -/
theorem witness_illegal_word_all (m : Mnemonic) : 0x03000000#32 &&& tableMask m ≠ tableMatch m :=
  witness_illegal_words.1 m (mnemonic_mem_all m)

/-- StepAlwaysContinuesIdlesAndResets: no event. -/
theorem witness_idle : State.reset.hostQueue = [] := rfl

/-- IllegalAccessIsBusError: past the word registers, a byte of CMD, past KEY's neighbours, every 16-bit access. -/
theorem witness_illegal_accesses :
    ¬LegalAccess (0x0060#16).toNat .word ∧ ¬LegalAccess (0x0000#16).toNat .byte ∧
      ¬LegalAccess (0x0503#16).toNat .byte ∧ ¬LegalAccess (0x0000#16).toNat .half := by
  simp only [LegalAccess]
  refine ⟨?_, ?_, ?_, ?_⟩ <;> simp <;> omega

/-- ReadAnswersStoredValue, ByteWriteStoresOrIsIgnored, BurstRecordHostWrites: the last register, byte and record. -/
theorem witness_access_bounds :
    23 < (registerValues ready).length ∧ 258 < ByteRegion.phybuf.size ∧ 259 < 260 ∧ 4 < 5 := by decide

/-- ByteWriteStoresOrIsIgnored: KEY locked, KEY open. -/
theorem witness_key_locked_and_open : locked.ctrl.keyLock = true ∧ State.reset.ctrl.keyLock = false := ⟨rfl, rfl⟩

/-- LockedKeyAndEuiStayUntilReset: a locked state and its step. -/
theorem witness_locked_step :
    locked.hostQueue.head? ≠ some .reset ∧ step locked = .next locked ∧ locked.ctrl.keyLock = true ∧
      locked.ctrl.euiLock = true := by
  refine ⟨?_, step_idle rfl, rfl, rfl⟩
  simp [locked, State.reset]

/-- KeyBytesNeverReachTheBus: two different keys. -/
theorem witness_two_keys : DifferOnlyInKey State.reset { State.reset with mem := [(0x0100, 0xAA)] } := by
  refine ⟨rfl, fun a ha => ?_⟩
  have : 0x0100 ≠ a := fun h => ha (by omega)
  simp [Memory.read, State.reset, this]

/-- FailedCommandsChangeOnlyTheErrorState: each of the three codes. -/
theorem witness_command_errors :
    commandError (.burstClear 261) State.reset = some 6 ∧ commandError .calcF0 State.reset = some 1 ∧
      commandError (.numBursts 256) State.reset = some 2 ∧
      commandError (.macEncode 246 0 1) State.reset = some 6 ∧
      commandError (.macEncode 246 0 0) State.reset = some 1 ∧
      commandError (.macEncode 246 0 0) locked = some 2 := by decide +kernel

/-- CommandsWithoutErrorComplete: operands of every command, at the ends of their ranges, without error in one state. -/
theorem witness_no_error :
    ∀ i ∈ ([.nop, .epcLoad, .epcCommit, .aesBlock, .cmacSubkeys, .cmac 0 256 1, .burstClear 260,
      .writeSubPacketBit 259 1, .writeBitIdx 259 39 1, .addMidamble 259, .diffMsk 259, .puncture 259, .ctrCrypt 0 256,
      .macEncode 245 0 0, .numBursts 255, .phyAssemble 255 3, .crc8 2071 1, .whiten 259, .convInterleave 259,
      .tsmaAssign 259 7, .lfsrStep, .calcF0, .crc2 0 2072, .syncEncode 7, .tsmaPattern 0xFFFFFF, .phyEncode 255 7 3,
      .send 244 1 255] : List Instr), commandError i ready = none := by decide +kernel

/-- EpcChangesOnlyByLoadAndMacEncode, PersistWindowKeptAndReloadExceedsIt: a command's next state. -/
theorem witness_exec_next : ∃ t, exec .nop State.reset = .next t := exec_next _ _

/-- StepKeepsStateLegal: a legal state other than reset's, and its step. -/
theorem witness_legal_step :
    ({ ready with mem := [(0x0100, 1), (0x0502, 255)], status := ⟨6, 0x21⟩, numBursts := 259, mpduLen := 255 }
        : State).Legal ∧
      step { ready with mem := [(0x0100, 1), (0x0502, 255)], status := ⟨6, 0x21⟩, numBursts := 259, mpduLen := 255 } =
        .next { ready with
          mem := [(0x0100, 1), (0x0502, 255)], status := ⟨6, 0x21⟩, numBursts := 259, mpduLen := 255 } := by
  refine ⟨⟨by decide, ?_, ?_, by decide, fun _ => rfl, by decide, by decide⟩, step_idle rfl⟩
  · intro c hc
    simp at hc
    rcases hc with rfl | rfl <;> simp [MemoryAddress]
  · intro r hr
    simp [State.burst, Bursts.rec, Vector.getD, hr, ready, region, locked, State.reset, BurstRec.cleared]

/-- EpcIncrementResult: both branches. -/
theorem witness_increment_branches : (0xFF + 1) % 256 = 0 ∧ (0xFE + 1) % 256 ≠ 0 := by decide

/-- PersistWindowKeptAndReloadExceedsIt: the first part's premises, at the last counter before a store. -/
theorem witness_persist_window :
    WithinPersistWindow { State.reset with epc := 0x1FF, epcStore := 0x100 } ∧
      (0x1FF#32).toNat + 1 < 2 ^ 24 ∧ (0x1FF#32).toNat < 2 ^ 24 - 256 ∧
      ∃ t, exec (.macEncode 0 0 0) { State.reset with epc := 0x1FF, epcStore := 0x100 } = .next t := by
  refine ⟨⟨?_, ?_⟩, ?_, ?_, exec_next _ _⟩ <;> decide

/-- The two states of its second part. -/
theorem witness_persist_reload :
    ({ State.reset with epcLoadval := 0x100 } : State).epcLoadval =
      ({ State.reset with epc := 0x1FF, epcStore := 0x100 } : State).epcStore := rfl

/-- A power cycle: the locks, then two MAC_ENCODE of no payload. -/
def twoPackets : List HostEvent :=
  [.write 0x010#16 .word 0x3#32, commandWrite (encode (.macEncode 0 0 0)), commandWrite (encode (.macEncode 0 0 0))]

/-- CountersUsedAfterABootExceedEarlierOnes: no reset and no EPC_LOAD among the events, the EPC below its bound, two
power cycles that use counters, the second from the 0x200 that the first has stored. -/
theorem witness_power_cycles :
    (∀ events ∈ [twoPackets, twoPackets], ∀ e ∈ events, e ≠ .reset ∧ e ≠ commandWrite (encode .epcLoad)) ∧
      (∀ c ∈ powerCycles 0x0FF#24 [twoPackets, twoPackets], c.highest < 2 ^ 24 - 256) ∧
      (powerCycles 0x0FF#24 [twoPackets, twoPackets]).map (fun c => (c.used, c.store)) =
        [([0x1FF, 0x200], 0x200#24), ([0x300, 0x301], 0x200#24)] := by decide +kernel

/-- The statements that ask for both locks, one lock short, and neither. -/
theorem witness_provisioned : Provisioned ready ∧ ¬Provisioned State.reset ∧ ¬Provisioned (region State.reset) := by
  decide

/-- The statements that ask for a legal region: the smallest and the largest f_0 that pass, and regions that do not. -/
theorem witness_region :
    RegionOk ready ∧ RegionOk { ready with chanA := 508 } ∧ ¬RegionOk { ready with chanA := 507 } ∧
      RegionOk { ready with bC := 2730 } ∧ ¬RegionOk { ready with bC := 2731 } ∧ ¬RegionOk State.reset := by decide

/-- CmacResult, CtrCryptResult: the slice that ends at MPDU's end, and the one past it. -/
theorem witness_slices :
    (0#8).toNat + (256#9).toNat ≤ 256 ∧ (255#8).toNat + (1#9).toNat ≤ 256 ∧ 256 < (255#8).toNat + (2#9).toNat := by
  decide

/-- CmacBlockSelection: an IV and a message of 16 bytes. -/
theorem witness_sixteen_bytes : (List.replicate 16 0#8).length = 16 ∧ List.replicate 16 0#8 ≠ [] := by decide

/-- BurstClearResult: N = 260 and 261. -/
theorem witness_burstClear : (260#9).toNat ≤ 260 ∧ 260 < (261#9).toNat := by decide

/-- The statements on one record or one stream: R = 259 and 260; IDX, or a stream position, of 39, and 40. -/
theorem witness_record_bounds :
    (259#9).toNat ≤ 259 ∧ 259 < (260#9).toNat ∧ (39#6).toNat ≤ 39 ∧ 39 < (40#6).toNat := by decide

/-- WriteSubPacketBitResult: a cursor of 23 and one of 24. -/
theorem witness_cursors :
    ((State.reset.setBurst 259 ⟨0, 23, 0, 0⟩).burst 259).cursor.toNat < 24 ∧
      24 ≤ ((State.reset.setBurst 259 fullBurst).burst 259).cursor.toNat := by decide +kernel

/-- CtrCryptTwiceRestores: two commands in a row. -/
theorem witness_ctr_twice :
    Provisioned locked ∧ ∃ t u, exec (.ctrCrypt 0 256) locked = .next t ∧ exec (.ctrCrypt 0 256) t = .next u := by
  obtain ⟨t, ht⟩ : ∃ t, exec (.ctrCrypt 0 256) locked = .next t := exec_next _ _
  obtain ⟨u, hu⟩ : ∃ u, exec (.ctrCrypt 0 256) t = .next u := exec_next _ _
  exact ⟨by decide, t, u, ht, hu⟩

/-- MacEncodeBuildsMpdu: MPF = 0 with and without a value; the longest MPDU and one byte more, short address. -/
theorem witness_macEncode :
    ((0#1 = 0#1 → (0#8) = 0#8) ∧ (5#8) ≠ 0#8) ∧ 4 + 2 + ((0#1).toNat + (245#9).toNat) + 4 ≤ 255 ∧
      255 < 4 + 2 + ((1#1).toNat + (245#9).toNat) + 4 := by decide

/-- NumBurstsResult, PhyAssembleResult, PhyEncodeEqualsPrimitives, PhyEncodeOutput: 255 and 256. -/
theorem witness_mpdu_lengths : (255#9).toNat ≤ 255 ∧ 255 < (256#9).toNat := by decide

/-- CrcCommandResults: the range that ends at PHYBUF's end, and the one past it. -/
theorem witness_crc_ranges :
    (2071#12).toNat + (1#12).toNat ≤ 2072 ∧ 2072 < (2071#12).toNat + (2#12).toNat := by decide

/-- WhitenResult: the bounds of N. -/
theorem witness_whiten :
    (0#9).toNat < 1 ∧ 1 ≤ (1#9).toNat ∧ (259#9).toNat ≤ 259 ∧ 259 < (260#9).toNat := by decide

/-- WhitenTwiceRestores: two commands in a row on a buffer whose last byte's low six bits are 0. -/
theorem witness_whiten_twice :
    State.reset.byte .phybuf ((259#9).toNat - 1) &&& 0x3F#8 = 0#8 ∧
      ∃ t u, exec (.whiten 259) State.reset = .next t ∧ exec (.whiten 259) t = .next u := by
  obtain ⟨t, ht⟩ : ∃ t, exec (.whiten 259) State.reset = .next t := exec_next _ _
  obtain ⟨u, hu⟩ : ∃ u, exec (.whiten 259) t = .next u := exec_next _ _
  exact ⟨rfl, t, u, ht, hu⟩

/-- ConvInterleaveScattersCodedBits, TsmaAssignResult: the bounds of the burst count. -/
theorem witness_burst_counts :
    (23#9).toNat < 24 ∧ 24 ≤ (24#9).toNat ∧ (259#9).toNat ≤ 259 ∧ 259 < (260#9).toNat := by decide

/-- ConvInterleaveScattersCodedBits: all cursors 0, and one that is not. -/
theorem witness_conv_cursors :
    (∀ r < 259, (State.reset.burst r).cursor = 0#5) ∧
      ∃ r < 24, ((State.reset.setBurst 23 fullBurst).burst r).cursor ≠ 0#5 := by
  refine ⟨fun r hr => ?_, 23, by decide, by decide +kernel⟩
  simp [State.burst, Bursts.rec, Vector.getD, State.reset, BurstRec.cleared, show r < 260 by omega]

/-- SyncEncodeResult: EUI_LOCK set and not set. -/
theorem witness_sync : ready.ctrl.euiLock = true ∧ State.reset.ctrl.euiLock = false := ⟨rfl, rfl⟩

/-- SendEqualsItsParts: the longest MPDU and one byte more, with an MPF byte. -/
theorem witness_send :
    mpduBytesNeeded ready (244#9).toNat (1#8 != 0#8) ≤ 255 ∧ 255 < mpduBytesNeeded ready (245#9).toNat (1#8 != 0#8) := by
  decide

/-- SendEqualsItsParts, TelegramContract: SYNC_EN and OUT_INFO.SYNC set. -/
theorem witness_sync_enabled :
    ({ ready with ctrl := { ready.ctrl with syncEn := true } } : State).ctrl.syncEn = true ∧
      ({ ready with outInfo := ⟨0, true⟩ } : State).outInfo.sync = true := ⟨rfl, rfl⟩

end Sys2Proof.Tests
end

section
/-! The host bus (20_memory.md R60 to R64): which location each address leads to, what `locate` can answer, and what a
host write to each kind of location does. -/

namespace Sys2Proof.Machine

/-! ### The address map (20_memory.md R60) -/

/-- No two regions overlap. -/
theorem regions_disjoint (g h : ByteRegion) :
    g = h ∨ g.base + g.size ≤ h.base ∨ h.base + h.size ≤ g.base := by
  cases g <;> cases h <;> decide

theorem region_end_le (g : ByteRegion) : g.base + g.size ≤ 0x503 := by
  cases g <;> decide

theorem mem_byteRegion_all (g : ByteRegion) : g ∈ ByteRegion.all := by
  cases g <;> decide

/-- An address lies in at most one region. -/
theorem region_unique {g h : ByteRegion} {i j : Nat} (hi : i < g.size) (hj : j < h.size)
    (e : g.base + i = h.base + j) : g = h := by
  rcases regions_disjoint g h with rfl | d | d
  · rfl
  · omega
  · omega

theorem byteLocation_region (g : ByteRegion) {i : Nat} (hi : i < g.size) :
    byteLocation (g.base + i) = some (.byte g i) := by
  unfold byteLocation
  split
  next h hfind =>
    have hh := List.find?_some hfind
    simp only [Bool.and_eq_true, decide_eq_true_eq] at hh
    obtain rfl : g = h := region_unique hi (j := g.base + i - h.base) (by omega) (by omega)
    simp
  next hfind =>
    have := List.find?_eq_none.1 hfind g (mem_byteRegion_all g)
    simp only [Bool.and_eq_true, decide_eq_true_eq] at this
    omega

/-- Past the last region no byte region is found. -/
theorem find_region_none {a : Nat} (ha : 0x503 ≤ a) :
    ByteRegion.all.find? (fun g => decide (g.base ≤ a) && decide (a < g.base + g.size)) = none := by
  refine List.find?_eq_none.2 fun g _ => ?_
  have := region_end_le g
  simp only [Bool.and_eq_true, decide_eq_true_eq]
  omega

theorem byteLocation_burstBits {r k : Nat} (hr : r < 260) (hk : k < 5) :
    byteLocation (0x1000 + 0x20 * r + k) = some (.burstBits r k) := by
  unfold byteLocation
  rw [find_region_none (by omega)]
  simp only
  rw [if_pos (by omega), show (0x1000 + 0x20 * r + k - 0x1000) / 0x20 = r by omega,
    show (0x1000 + 0x20 * r + k - 0x1000) % 0x20 = k by omega]

/-- The word locations of a burst record, by the offset within the record. -/
theorem wordLocation_burst {r : Nat} (hr : r < 260) :
    wordLocation (0x1000 + 0x20 * r + 0x08) = some (.burstCarrier r) ∧
    wordLocation (0x1000 + 0x20 * r + 0x0C) = some (.burstTrb r) ∧
    wordLocation (0x1000 + 0x20 * r + 0x10) = some (.burstCursor r) ∧
    wordLocation (0x1000 + 0x20 * r + 0x14) = some (.burstBitLength r) := by
  have key : ∀ o, o < 0x20 →
      ¬(0x1000 + 0x20 * r + o < 0x60) ∧ (0x1000 ≤ 0x1000 + 0x20 * r + o ∧ 0x1000 + 0x20 * r + o < 0x3080) ∧
        (0x1000 + 0x20 * r + o - 0x1000) / 0x20 = r ∧ (0x1000 + 0x20 * r + o - 0x1000) % 0x20 = o := by
    omega
  refine ⟨?_, ?_, ?_, ?_⟩
  · obtain ⟨hlow, hin, hdiv, hmod⟩ := key 0x08 (by omega)
    simp only [wordLocation, hlow, hin, hdiv, hmod, if_false, and_self, if_true]
  · obtain ⟨hlow, hin, hdiv, hmod⟩ := key 0x0C (by omega)
    simp only [wordLocation, hlow, hin, hdiv, hmod, if_false, and_self, if_true]
  · obtain ⟨hlow, hin, hdiv, hmod⟩ := key 0x10 (by omega)
    simp only [wordLocation, hlow, hin, hdiv, hmod, if_false, and_self, if_true]
  · obtain ⟨hlow, hin, hdiv, hmod⟩ := key 0x14 (by omega)
    simp only [wordLocation, hlow, hin, hdiv, hmod, if_false, and_self, if_true]

theorem locate_byte {a : Nat} (ha : a < 2 ^ 16) : locate (BitVec.ofNat 16 a) .byte = byteLocation a := by
  simp only [locate, BitVec.toNat_ofNat, Nat.mod_eq_of_lt ha]

theorem locate_word {a : Nat} (ha : a < 2 ^ 16) : locate (BitVec.ofNat 16 a) .word = wordLocation a := by
  simp only [locate, BitVec.toNat_ofNat, Nat.mod_eq_of_lt ha]

theorem locate_region (g : ByteRegion) {i : Nat} (hi : i < g.size) :
    locate (BitVec.ofNat 16 (g.base + i)) .byte = some (.byte g i) := by
  have := region_end_le g
  rw [locate_byte (by omega), byteLocation_region g hi]

/-- A word access never leads to a byte of a region. -/
theorem wordLocation_ne_byte (a : Nat) (g : ByteRegion) (i : Nat) : wordLocation a ≠ some (.byte g i) := by
  unfold wordLocation
  split
  · split <;> simp
  · split
    · simp only
      split <;> simp
    · simp

/-- An access to a region stays inside it. -/
theorem locate_byte_inRange {a : HostAddr} {n : AccessSize} {g : ByteRegion} {i : Nat}
    (h : locate a n = some (.byte g i)) : i < g.size := by
  cases n with
  | half => simp [locate] at h
  | word => exact absurd h (wordLocation_ne_byte _ g i)
  | byte =>
    simp only [locate, byteLocation] at h
    split at h
    next g' hfind =>
      have hin := List.find?_some hfind
      simp only [Bool.and_eq_true, decide_eq_true_eq] at hin
      simp only [Option.some.injEq, Location.byte.injEq] at h
      obtain ⟨rfl, rfl⟩ := h
      omega
    next => split at h <;> simp at h

/-! ### Host writes (20_memory.md R64) -/

/-- A host write to a location other than CMD writes that location and is acknowledged. -/
theorem step_write {a : HostAddr} {n : AccessSize} {l : Location} (h : locate a n = some l) (hl : l ≠ .reg .cmd)
    (s : State) (v : Word) : step (s.before (.write a n v)) = .next ((s.writeLoc v l).answer 0) := by
  rw [step_before]
  simp only [serve, serveWrite, h]

/-- A host read answers with the location's value. -/
theorem step_read {a : HostAddr} {n : AccessSize} {l : Location} (h : locate a n = some l) (s : State) :
    step (s.before (.read a n)) = .next (s.answer (s.readLoc l)) := by
  rw [step_before]
  simp only [serve, State.serveRead, h]

theorem writeLoc_byte_locked {s : State} {g : ByteRegion} (h : s.writable g = false) (i : Nat) (v : Word) :
    s.writeLoc v (.byte g i) = s := by
  simp [State.writeLoc, h]

theorem writeLoc_byte_open {s : State} {g : ByteRegion} (h : s.writable g = true) (i : Nat) (v : Word) :
    s.writeLoc v (.byte g i) = s.setByte g i (v.setWidth 8) := by
  simp [State.writeLoc, h]

/-- The regions a host write leaves alone: the RO ones, and KEY and EUI64 once locked (R48, R49). -/
theorem writable_eq_false_iff (s : State) (g : ByteRegion) :
    s.writable g = false ↔ (g = .key ∧ s.ctrl.keyLock = true) ∨ (g = .eui64 ∧ s.ctrl.euiLock = true) ∨ g = .aesOut ∨
      g = .k1 ∨ g = .k2 ∨ g = .tag := by
  cases g <;> simp [State.writable]

/-- A byte of BITS after a byte is written (R56). -/
theorem burstByte_setBurstByte (b : BurstBits) {j k : Nat} (v : Byte) (hj : j < 5) (hk : k < 5) :
    burstByte (setBurstByte b k v) j = if j = k then v else burstByte b j := by
  have ones : ∀ n, (0xFF#40).getLsbD n = decide (n < 8) := by
    intro n
    rw [show (0xFF#40) = BitVec.ofNat 40 (2 ^ 8 - 1) from rfl, BitVec.getLsbD_ofNat, Nat.testBit_two_pow_sub_one]
    by_cases h : n < 8
    · simp [h, show n < 40 by omega]
    · simp [h]
  apply BitVec.eq_of_getLsbD_eq
  intro n hn
  simp only [burstByte, setBurstByte, BitVec.getLsbD_extractLsb', hn, decide_true, Bool.true_and, BitVec.getLsbD_or,
    BitVec.getLsbD_and, BitVec.getLsbD_not, BitVec.getLsbD_shiftLeft, BitVec.getLsbD_setWidth, ones,
    show 32 - 8 * j + n < 40 by omega]
  by_cases h : j = k
  · subst h
    simp [hn, show n < 40 by omega]
  · rw [if_neg h, BitVec.getLsbD_extractLsb']
    by_cases hlt : 32 - 8 * j + n < 32 - 8 * k
    · simp [hn, hlt]
    · have hge : 8 ≤ 32 - 8 * j + n - (32 - 8 * k) := by omega
      simp [hn, hlt, show ¬(32 - 8 * j + n - (32 - 8 * k) < 8) by omega, BitVec.getLsbD_of_ge v _ hge]

/-- The writes of a record's fields, and of its CURSOR and BIT_LENGTH, which ignore them (R56). -/
theorem writeLoc_burstBits (s : State) (r k : Nat) (v : Word) : s.writeLoc v (.burstBits r k) =
    s.setBurst r { s.burst r with bits := setBurstByte (s.burst r).bits k (v.setWidth 8) } := rfl

theorem writeLoc_burstCarrier (s : State) (r : Nat) (v : Word) :
    s.writeLoc v (.burstCarrier r) = s.setBurst r { s.burst r with carrier := v.setWidth 16 } := rfl

theorem writeLoc_burstTrb (s : State) (r : Nat) (v : Word) :
    s.writeLoc v (.burstTrb r) = s.setBurst r { s.burst r with trb := v.setWidth 16 } := rfl

/-- A store of record `r` that is then answered: only the record file changes, and in it only the record `r`. -/
theorem setBurst_answer (s : State) {r : Nat} (x : BurstRec) (hr : r < 260) :
    (s.setBurst r x).answer 0 = { s.answered 0 with bursts := ((s.setBurst r x).answer 0).bursts } ∧
      (∀ q, q ≠ r → ((s.setBurst r x).answer 0).burst q = s.burst q) ∧
      ((s.setBurst r x).answer 0).burst r = x :=
  ⟨rfl, fun _ hq => setBurst_burst_other s x hq, setBurst_burst_same s x hr⟩

/-! ### The statements on host accesses -/

/-- A write to a register, by its address. -/
theorem step_write_reg {a : HostAddr} {r : WordReg} (h : locate a .word = some (.reg r)) (hr : r ≠ .cmd)
    (s : State) (v : Word) : step (s.before (.write a .word v)) = .next ((s.writeReg v r).answer 0) :=
  step_write h (by simpa using hr) s v

/-- The addresses of the RO registers lead to registers that ignore a write (R60, R64). -/
theorem readOnly_write_ignored {a : HostAddr} (ha : a ∈ readOnlyRegisters) :
    ∃ r, locate a .word = some (.reg r) ∧ r ≠ .cmd ∧ ∀ (s : State) (v : Word), s.writeReg v r = s := by
  simp only [readOnlyRegisters, List.mem_cons, List.not_mem_nil, or_false] at ha
  rcases ha with rfl | rfl | rfl | rfl | rfl | rfl | rfl | rfl | rfl | rfl
  · exact ⟨.status, by decide, by decide, fun _ _ => rfl⟩
  · exact ⟨.result, by decide, by decide, fun _ _ => rfl⟩
  · exact ⟨.epc, by decide, by decide, fun _ _ => rfl⟩
  · exact ⟨.epcStore, by decide, by decide, fun _ _ => rfl⟩
  · exact ⟨.f0, by decide, by decide, fun _ _ => rfl⟩
  · exact ⟨.numBursts, by decide, by decide, fun _ _ => rfl⟩
  · exact ⟨.mpduLen, by decide, by decide, fun _ _ => rfl⟩
  · exact ⟨.whitenLfsr, by decide, by decide, fun _ _ => rfl⟩
  · exact ⟨.convSr, by decide, by decide, fun _ _ => rfl⟩
  · exact ⟨.outInfo, by decide, by decide, fun _ _ => rfl⟩

/-- Settles O12: each address leads to its register, whose write rule the clause states. -/
theorem registerWriteRules : Obligations.RegisterWriteRules := by
  intro s v
  have low {n : Nat} (hn : n ≤ 32) : v.extractLsb' 0 n = v.setWidth n := (BitVec.setWidth_eq_extractLsb' hn).symm
  rw [low (n := 2) (by decide), low (n := 4) (by decide), low (n := 8) (by decide), low (n := 16) (by decide),
    low (n := 24) (by decide)]
  refine ⟨fun a ha => ?_, ?_⟩
  · obtain ⟨r, hloc, hr, hkeep⟩ := readOnly_write_ignored ha
    rw [step_write_reg hloc hr, hkeep]
    rfl
  · exact ⟨step_write_reg (r := .events) (by decide) (by decide) s v,
      step_write_reg (r := .ctrl) (by decide) (by decide) s v,
      step_write_reg (r := .shortAddrOvr) (by decide) (by decide) s v,
      step_write_reg (r := .chanA) (by decide) (by decide) s v,
      step_write_reg (r := .chanB) (by decide) (by decide) s v,
      step_write_reg (r := .bC) (by decide) (by decide) s v,
      step_write_reg (r := .bC0) (by decide) (by decide) s v,
      step_write_reg (r := .upg) (by decide) (by decide) s v,
      step_write_reg (r := .nCo) (by decide) (by decide) s v,
      step_write_reg (r := .epcLoadval) (by decide) (by decide) s v,
      step_write_reg (r := .crcHdr) (by decide) (by decide) s v,
      step_write_reg (r := .crcPay) (by decide) (by decide) s v,
      step_write_reg (r := .tsmaLfsr) (by decide) (by decide) s v⟩

/-- Settles O13: the address leads to the region's byte, and the byte is stored exactly where the region is writable. -/
theorem byteWriteStoresOrIsIgnored : Obligations.ByteWriteStoresOrIsIgnored := by
  intro s g i v hi
  have hstep := step_write (locate_region g hi) (by simp) s v
  split
  next hlocked =>
    rw [hstep, writeLoc_byte_locked ((writable_eq_false_iff s g).2 hlocked)]
    rfl
  next hopen =>
    have hw : s.writable g = true := by
      rwa [← writable_eq_false_iff, Bool.not_eq_false] at hopen
    rw [writeLoc_byte_open hw, BitVec.setWidth_eq_extractLsb' (by decide)] at hstep
    exact ⟨_, hstep, rfl, Memory.read_write_same _ _ _, fun a ha => Memory.read_write_other _ _ ha⟩

/-- Settles O14: each field's write is a store of the record with that field replaced. -/
theorem burstRecordHostWrites : Obligations.BurstRecordHostWrites := by
  intro s r v hr
  obtain ⟨hcarrier, htrb, hcursor, hlength⟩ := wordLocation_burst hr
  refine ⟨fun k hk => ?bits, ?carrier, ?trb, ?cursor, ?bitLength⟩
  case bits =>
    have hloc := (locate_byte (by omega)).trans (byteLocation_burstBits hr hk)
    have hstep := step_write hloc (by simp) s v
    rw [writeLoc_burstBits, BitVec.setWidth_eq_extractLsb' (by decide)] at hstep
    obtain ⟨hframe, hother, hsame⟩ :=
      setBurst_answer s { s.burst r with bits := setBurstByte (s.burst r).bits k (v.extractLsb' 0 8) } hr
    refine ⟨_, hstep, hframe, hother, by rw [hsame], fun j hj => ?_⟩
    rw [hsame]
    exact burstByte_setBurstByte _ _ hj hk
  case carrier =>
    have hstep := step_write ((locate_word (by omega)).trans hcarrier) (by simp) s v
    rw [writeLoc_burstCarrier, BitVec.setWidth_eq_extractLsb' (by decide)] at hstep
    exact ⟨_, hstep, setBurst_answer s _ hr⟩
  case trb =>
    have hstep := step_write ((locate_word (by omega)).trans htrb) (by simp) s v
    rw [writeLoc_burstTrb, BitVec.setWidth_eq_extractLsb' (by decide)] at hstep
    exact ⟨_, hstep, setBurst_answer s _ hr⟩
  case cursor => exact step_write ((locate_word (by omega)).trans hcursor) (by simp) s v
  case bitLength => exact step_write ((locate_word (by omega)).trans hlength) (by simp) s v

/-- A location's value as read does not depend on the bytes of KEY: a readable region lies past KEY (R48). -/
theorem readLoc_of_differOnlyInKey {s u : State} (h : DifferOnlyInKey s u) (l : Location) :
    s.readLoc l = u.readLoc l := by
  obtain ⟨hfields, hbytes⟩ := h
  cases l with
  | reg r => rw [hfields]; cases r <;> rfl
  | byte g i =>
    simp only [State.readLoc]
    split
    next hg =>
      have hpast : 0x110 ≤ g.base := by
        revert hg
        cases g <;> decide
      rw [State.byte, State.byte, hbytes _ (by omega)]
    next => rfl
  | burstBits r k => rw [hfields]; rfl
  | burstCarrier r => rw [hfields]; rfl
  | burstTrb r => rw [hfields]; rfl
  | burstCursor r => rw [hfields]; rfl
  | burstBitLength r => rw [hfields]; rfl

/-- Settles O16: a legal read answers its location's value, an illegal one a bus error. -/
theorem keyBytesNeverReachTheBus : Obligations.KeyBytesNeverReachTheBus := by
  intro s u a n h
  cases hloc : locate a n with
  | some l =>
    refine ⟨_, _, step_read hloc s, step_read hloc u, ?_⟩
    simp only [answer_busResponse, readLoc_of_differOnlyInKey h l]
  | none =>
    have hillegal : ∀ w : State, step (w.before (.read a n)) = .next w.busError := by
      intro w
      rw [step_before]
      simp only [serve, State.serveRead, hloc]
    exact ⟨_, _, hillegal s, hillegal u, rfl⟩

end Sys2Proof.Machine
end

section
/-! CONV_INTERLEAVE's cursors (44_phy_coding.md R143, R144): no burst takes more than its 24 data bits. -/

namespace Sys2Proof.Machine

/-! ### Where and when a coded bit arrives -/

variable {nb : Nat}

/-- The first 288 coded bits fill the core bursts in turn. -/
theorem route_arrival_core {o : Nat} (ho : o < 288) : route o nb = o % 24 ∧ arrival o nb = o / 24 := by
  simp [route, arrival, ho]

/-- The others come in rounds of `nb - 12`: the first 12 of a round to the even or the odd core bursts, the rest to one
extension burst each. -/
theorem route_arrival_round {o : Nat} (ho : 288 ≤ o) :
    ((o - 288) % (nb - 12) < 12 ∧ route o nb = 2 * ((o - 288) % (nb - 12)) + (o - 288) / (nb - 12) % 2 ∧
      arrival o nb = 12 + (o - 288) / (nb - 12) / 2) ∨
    (12 ≤ (o - 288) % (nb - 12) ∧ route o nb = (o - 288) % (nb - 12) + 12 ∧
      arrival o nb = (o - 288) / (nb - 12)) := by
  simp only [route, arrival, if_neg (Nat.not_lt.2 ho)]
  by_cases h : (o - 288) % (nb - 12) < 12
  · simp [h]
  · simp [h]
    omega

/-- Every coded bit goes to one of the telegram's bursts. -/
theorem route_lt (hnb : 24 ≤ nb) (o : Nat) : route o nb < nb := by
  have hgi : (o - 288) % (nb - 12) < nb - 12 := Nat.mod_lt _ (by omega)
  rcases Nat.lt_or_ge o 288 with ho | ho
  · obtain ⟨hroute, _⟩ := route_arrival_core (nb := nb) ho
    omega
  · rcases route_arrival_round (nb := nb) ho with ⟨_, hroute, _⟩ | ⟨_, hroute, _⟩ <;> omega

/-- A burst takes at most 24 coded bits. -/
theorem arrival_lt (hnb : 24 ≤ nb) {o : Nat} (ho : o < 24 * nb) : arrival o nb < 24 := by
  have hround : (o - 288) / (nb - 12) < 24 := Nat.div_lt_of_lt_mul (by omega)
  rcases Nat.lt_or_ge o 288 with hcore | hcore
  · obtain ⟨_, harrival⟩ := route_arrival_core (nb := nb) hcore
    omega
  · rcases route_arrival_round (nb := nb) hcore with ⟨_, _, harrival⟩ | ⟨_, _, harrival⟩ <;> omega

/-- Numbers that leave the same remainder are in the order of their quotients. -/
theorem div_lt_div_of_mod_eq {a b n : Nat} (hab : a < b) (hmod : a % n = b % n) : a / n < b / n := by
  by_contra hle
  have hmul : n * (b / n) ≤ n * (a / n) := Nat.mul_le_mul_left n (by omega)
  have ha := Nat.div_add_mod a n
  have hb := Nat.div_add_mod b n
  omega

/-- Coded bits of one burst arrive one after another. -/
theorem arrival_lt_arrival {o p : Nat} (hop : o < p) (hroute : route o nb = route p nb) :
    arrival o nb < arrival p nb := by
  rcases Nat.lt_or_ge o 288 with ho | ho
  · obtain ⟨hro, hao⟩ := route_arrival_core (nb := nb) ho
    rcases Nat.lt_or_ge p 288 with hp | hp
    · obtain ⟨hrp, hap⟩ := route_arrival_core (nb := nb) hp
      omega
    · have hround := route_arrival_round (nb := nb) hp
      generalize (p - 288) / (nb - 12) = group at hround
      rcases hround with ⟨_, hrp, hap⟩ | ⟨_, hrp, hap⟩ <;> omega
  · have hlater : (o - 288) % (nb - 12) = (p - 288) % (nb - 12) → (o - 288) / (nb - 12) < (p - 288) / (nb - 12) :=
      div_lt_div_of_mod_eq (by omega)
    rcases route_arrival_round (nb := nb) ho with ⟨_, hro, hao⟩ | ⟨_, hro, hao⟩ <;>
      rcases route_arrival_round (nb := nb) (show 288 ≤ p by omega) with ⟨_, hrp, hap⟩ | ⟨_, hrp, hap⟩ <;> omega

/-! ### The cursors through the encoder's loop -/

/-- Before coded bit `o`, no cursor has passed the place where its burst's next coded bit arrives, nor 24. -/
def CursorsBehind (nb o : Nat) (b : Bursts) : Prop :=
  ∀ q < 260, (b.rec q).cursor.toNat ≤ 24 ∧
    ∀ p, o ≤ p → p < 24 * nb → route p nb = q → (b.rec q).cursor.toNat ≤ arrival p nb

/-- Storing coded bit `o` moves its burst's cursor on by one, at or behind the arrival of the next. -/
theorem cursorsBehind_push (hnb : 24 ≤ nb) {o : Nat} (ho : o < 24 * nb) {b : Bursts} (h : CursorsBehind nb o b)
    (v : Bool) : CursorsBehind nb (o + 1)
      (b.put (route o nb) (pushDataBit (route o nb) v (b.rec (route o nb)))) := by
  intro q hq
  obtain ⟨hle, hnext⟩ := h q hq
  by_cases hr : q = route o nb
  · subst hr
    have hnow := hnext o (Nat.le_refl o) ho rfl
    have hlast := arrival_lt hnb ho
    have hcursor : (pushDataBit (route o nb) v (b.rec (route o nb))).cursor.toNat =
        (b.rec (route o nb)).cursor.toNat + 1 := by
      have hone : (1 : BitVec 5).toNat = 1 := rfl
      simp only [pushDataBit, BitVec.toNat_add, hone]
      omega
    rw [Bursts.rec_put_same _ _ hq, hcursor]
    refine ⟨by omega, fun p hp _ hroute => ?_⟩
    have := arrival_lt_arrival (show o < p by omega) hroute.symm
    omega
  · rw [Bursts.rec_put_other _ _ hr]
    exact ⟨hle, fun p hp => hnext p (by omega)⟩

theorem cursorsBehind_convScatter (hnb : 24 ≤ nb) {i : Nat} (hi : i < 8 * nb) {b : Bursts}
    (h : CursorsBehind nb (3 * i) b) (w : BitVec 7) : CursorsBehind nb (3 * (i + 1)) (convScatter i nb w b) := by
  rw [Nat.mul_succ]
  unfold convScatter
  refine forRange_induct (Nat.zero_le 3) _ b (fun k t => CursorsBehind nb (3 * i + k) t) h ?_
  intro k t _ hk ht
  exact cursorsBehind_push hnb (by omega) ht _

theorem cursorsBehind_convLoop (hnb : 24 ≤ nb) (buf : Nat → Byte) {b : Bursts} (h : CursorsBehind nb 0 b) :
    CursorsBehind nb (3 * (8 * nb)) (convLoop buf nb b).2 := by
  unfold convLoop
  refine forRange_induct (Nat.zero_le (8 * nb)) _ _
    (fun i (t : BitVec 6 × Bursts) => CursorsBehind nb (3 * i) t.2) h ?_
  intro i t _ hi ht
  exact cursorsBehind_convScatter hnb hi ht _

/-- Zero cursors in the telegram's bursts, as CONV_INTERLEAVE asks for, are behind every arrival. -/
theorem cursorsBehind_start (hnb : 24 ≤ nb) {b : Bursts} (hle : ∀ q < 260, (b.rec q).cursor.toNat ≤ 24)
    (hzero : ∀ q < nb, (b.rec q).cursor = 0#5) : CursorsBehind nb 0 b := by
  refine fun q hq => ⟨hle q hq, fun p _ _ hroute => ?_⟩
  rw [hzero q (hroute ▸ route_lt hnb p)]
  exact Nat.zero_le _

end Sys2Proof.Machine
end

section
/-! What a command does to the state (60_exceptions.md R174, R175; 30_encoding.md R97): the stores its body makes, the
cursors it leaves, and the three ways it ends. -/

namespace Sys2Proof.Machine

/-! ### Stores -/

/-- Memory after stores that each stay inside one region other than KEY and EUI64. -/
inductive CommandStores (m : Memory) : Memory → Prop where
  | refl : CommandStores m m
  | store {m' : Memory} (h : CommandStores m m') (g : ByteRegion) (a : Nat) (bs : List Byte) (hkey : g ≠ .key)
      (heui : g ≠ .eui64) (hfit : a + bs.length ≤ g.size) : CommandStores m (m'.writeList (g.base + a) bs)

theorem CommandStores.trans {m m' m'' : Memory} (h : CommandStores m m') (h' : CommandStores m' m'') :
    CommandStores m m'' := by
  induction h' with
  | refl => exact h
  | store _ g a bs hkey heui hfit ih => exact ih.store g a bs hkey heui hfit

/-- KEY and EUI64 lie below every other region. -/
theorem base_past_locked {g : ByteRegion} (hkey : g ≠ .key) (heui : g ≠ .eui64) : 0x118 ≤ g.base := by
  cases g
  case key => exact absurd rfl hkey
  case eui64 => exact absurd rfl heui
  all_goals decide

/-- A command's stores leave KEY and EUI64 as they were (10_state.md R57). -/
theorem CommandStores.read_locked {m m' : Memory} (h : CommandStores m m') {a : Nat} (ha : a < 0x118) :
    m'.read a = m.read a := by
  induction h with
  | refl => rfl
  | store _ g i bs hkey heui _ ih =>
    have := base_past_locked hkey heui
    rw [Memory.read_writeList_outside _ _ _ (by omega), ih]

/-- A memory in canonical form that lists only addresses that exist. -/
def Memory.Legal (m : Memory) : Prop := m.wf ∧ ∀ c ∈ m, MemoryAddress c.1

theorem memoryAddress_region {g : ByteRegion} {i : Nat} (hi : i < g.size) : MemoryAddress (g.base + i) := by
  cases g <;> simp only [ByteRegion.size, ByteRegion.base, MemoryAddress] at * <;> omega

/-- A store inside a region keeps the memory legal. -/
theorem Memory.Legal.store {m : Memory} (h : m.Legal) {g : ByteRegion} {a : Nat} {bs : List Byte}
    (hfit : a + bs.length ≤ g.size) : (m.writeList (g.base + a) bs).Legal := by
  obtain ⟨hwf, hmapped⟩ := h
  refine ⟨Memory.wf_writeList hwf _ _, fun c hc => ?_⟩
  rcases Memory.mem_writeList hc with hin | hold
  · have := memoryAddress_region (g := g) (i := c.1 - g.base) (by omega)
    rwa [show g.base + (c.1 - g.base) = c.1 by omega] at this
  · exact hmapped c hold

theorem CommandStores.legal {m m' : Memory} (h : CommandStores m m') (hm : m.Legal) : m'.Legal := by
  induction h with
  | refl => exact hm
  | store _ g a bs _ _ hfit ih => exact ih.store hfit

/-! ### The effect of a body -/

/-- Every record's cursor is in 0..24 (10_state.md R56). -/
def Bursts.CursorsLegal (b : Bursts) : Prop := ∀ r < 260, (b.rec r).cursor.toNat ≤ 24

/-- What the body of any command keeps or leaves: CTRL, the byte memory but for stores, legal cursors, and burst counts
and MPDU lengths in range. A body that does not touch a part leaves its field out. -/
structure BodyEffect (s t : State) : Prop where
  ctrl : t.ctrl = s.ctrl := by rfl
  stores : CommandStores s.mem t.mem := by exact .refl
  cursors : s.bursts.CursorsLegal → t.bursts.CursorsLegal := by exact id
  burstCount : t.numBursts = s.numBursts ∨ (24 ≤ t.numBursts.toNat ∧ t.numBursts.toNat ≤ 259) := by exact .inl rfl
  mpduLength : t.mpduLen = s.mpduLen ∨ (10 ≤ t.mpduLen.toNat ∧ t.mpduLen.toNat ≤ 255) := by exact .inl rfl

theorem BodyEffect.trans {s t u : State} (h : BodyEffect s t) (h' : BodyEffect t u) : BodyEffect s u where
  ctrl := h'.ctrl.trans h.ctrl
  stores := h.stores.trans h'.stores
  cursors := h'.cursors ∘ h.cursors
  burstCount := h'.burstCount.elim (fun e => e ▸ h.burstCount) .inr
  mpduLength := h'.mpduLength.elim (fun e => e ▸ h.mpduLength) .inr

theorem setBytes_effect (s : State) {g : ByteRegion} {a : Nat} {bs : List Byte} (hkey : g ≠ .key) (heui : g ≠ .eui64)
    (hfit : a + bs.length ≤ g.size) : BodyEffect s (s.setBytes g a bs) where
  stores := CommandStores.refl.store g a bs hkey heui hfit

theorem setByte_effect (s : State) {g : ByteRegion} {i : Nat} (v : Byte) (hkey : g ≠ .key) (heui : g ≠ .eui64)
    (hi : i < g.size) : BodyEffect s (s.setByte g i v) :=
  setBytes_effect s (bs := [v]) hkey heui hi

theorem setBlock_effect (s : State) {g : ByteRegion} (x : Block) (hkey : g ≠ .key) (heui : g ≠ .eui64)
    (hsize : g.size = 16) : BodyEffect s (s.setBlock g x) :=
  setBytes_effect s hkey heui (by rw [blockBytes_length, hsize])

theorem writeSubkeys_effect (s : State) : BodyEffect s (writeSubkeys s) :=
  (setBlock_effect s _ (g := .k1) (by decide) (by decide) rfl).trans
    (setBlock_effect _ _ (g := .k2) (by decide) (by decide) rfl)

/-! ### Cursors -/

/-- Rewriting a record with its old cursor changes no cursor. -/
theorem rec_put_cursor (b : Bursts) {r : Nat} {x : BurstRec} (hx : x.cursor = (b.rec r).cursor) (q : Nat) :
    ((b.put r x).rec q).cursor = (b.rec q).cursor := by
  by_cases hq : q = r
  · subst hq
    by_cases hr : q < 260
    · rw [Bursts.rec_put_same _ _ hr, hx]
    · simp [Bursts.rec, Bursts.put, Vector.getD, hr]
  · rw [Bursts.rec_put_other _ _ hq]

theorem Bursts.CursorsLegal.of_eq {b c : Bursts} (h : ∀ q < 260, (c.rec q).cursor = (b.rec q).cursor)
    (hb : b.CursorsLegal) : c.CursorsLegal := fun q hq => h q hq ▸ hb q hq

/-- Storing a record whose cursor is legal keeps the cursors legal. -/
theorem Bursts.CursorsLegal.put {b : Bursts} (h : b.CursorsLegal) (r : Nat) {x : BurstRec} (hx : x.cursor.toNat ≤ 24) :
    (b.put r x).CursorsLegal := by
  intro q hq
  by_cases hr : q = r
  · rw [← hr, Bursts.rec_put_same _ _ hq]
    exact hx
  · rw [Bursts.rec_put_other _ _ hr]
    exact h q hq

/-- A command that rewrites one record but for its cursor. -/
theorem setBurst_effect (s : State) {r : Nat} {x : BurstRec} (hx : x.cursor = (s.burst r).cursor) :
    BodyEffect s (s.setBurst r x) where
  cursors := Bursts.CursorsLegal.of_eq fun q _ => rec_put_cursor s.bursts hx q

/-- TSMA_ASSIGN leaves every cursor (45_tsma_sync.md R150). -/
theorem tsmaCore_cursor (upg : BitVec 2) (p : BitVec 3) (bc : BitVec 16) (b : Bursts) (q : Nat) :
    ((tsmaCore upg p bc b).rec q).cursor = (b.rec q).cursor := by
  rw [tsmaCore_rec]
  split <;> rfl

theorem tsmaExtension_cursor (nb : Nat) (upg : BitVec 2) (bc seed : BitVec 16) (b : Bursts) (q : Nat) :
    ((tsmaExtension nb upg bc seed b).2.rec q).cursor = (b.rec q).cursor := by
  unfold tsmaExtension
  refine forRange_invariant 24 nb _ _
    (fun t : BitVec 16 × Bursts => (t.2.rec q).cursor = (b.rec q).cursor) rfl fun i t _ _ ht => ?_
  simp only
  rw [rec_put_cursor _ ?_, rec_put_cursor _ ?_, ht] <;> rfl

/-! ### The body of each command -/

theorem aesBlockBody_effect (s : State) : BodyEffect s (aesBlockBody s).2 :=
  setBlock_effect s _ (by decide) (by decide) rfl

theorem cmacBody_effect (start len : Nat) (ivp : Bool) (s : State) : BodyEffect s (cmacBody start len ivp s).2 :=
  (setBlock_effect s _ (by decide) (by decide) rfl).trans (writeSubkeys_effect _)

theorem burstClearBody_effect {n : Nat} (hn : n ≤ 260) (s : State) : BodyEffect s (burstClearBody n s).2 where
  cursors h q hq := by
    have := burstClearBody_burst n hn s q
    unfold State.burst at this
    rw [this]
    split
    · decide
    · exact h q hq

theorem writeSubPacketBitBody_effect {r : Nat} (v : Bool) {s : State} (hcursor : (s.burst r).cursor.toNat < 24) :
    BodyEffect s (writeSubPacketBitBody r v s).2 where
  cursors h := by
    refine h.put r ?_
    have hone : (1 : BitVec 5).toNat = 1 := rfl
    simp only [pushDataBit, BitVec.toNat_add, hone]
    omega

theorem ctrCryptBody_effect {start len : Nat} (h : start + len ≤ 256) (s : State) :
    BodyEffect s (ctrCryptBody start len s).2 :=
  setBytes_effect s (by decide) (by decide) (by simpa [ByteRegion.size] using h)

/-- MAC_ENCODE's last writes: MPDU_LEN and the counter's step. -/
theorem epcIncrement_effect (s : State) {n : BitVec 9} (hn : 10 ≤ n.toNat ∧ n.toNat ≤ 255) :
    BodyEffect s (epcIncrement { s with mpduLen := n }) where
  mpduLength := .inr hn

theorem macEncodeBody_effect {len : Nat} {mpf : Bool} (mpfv : Byte) {s : State} (h : mpduLength s len mpf ≤ 255) :
    BodyEffect s (macEncodeBody len mpf mpfv s).2 := by
  have hbytes : 0 + (mpduBytes s len mpf mpfv).length ≤ ByteRegion.mpdu.size := by
    rw [mpduBytes_length]
    exact (Nat.zero_add _).trans_le (h.trans (by decide))
  have hrange : 10 ≤ (BitVec.ofNat 9 (mpduLength s len mpf)).toNat ∧
      (BitVec.ofNat 9 (mpduLength s len mpf)).toNat ≤ 255 := by
    have : 10 ≤ mpduLength s len mpf := by
      unfold mpduLength
      omega
    rw [BitVec.toNat_ofNat]
    omega
  simp only [macEncodeBody]
  have hstores := ((setBytes_effect s (by decide) (by decide) hbytes).trans
    (setBlock_effect _ (mpduTag s len mpf mpfv) (g := .tag) (by decide) (by decide) rfl)).trans (writeSubkeys_effect _)
  generalize writeSubkeys _ = stored at hstores ⊢
  exact hstores.trans (epcIncrement_effect _ hrange)

theorem phyAssembleBody_effect {m : Nat} (h : m ≤ 255) (mmode : BitVec 2) (s : State) :
    BodyEffect s (phyAssembleBody m mmode s).2 := by
  have hlen := phyBody_length m h mmode (bytes_length s .mpdu 0 m)
  obtain ⟨hlow, hhigh⟩ := numBurstsOf_bounds h
  have hcount : 24 ≤ (BitVec.ofNat 9 (numBurstsOf m)).toNat ∧ (BitVec.ofNat 9 (numBurstsOf m)).toNat ≤ 259 := by
    rw [BitVec.toNat_ofNat]
    omega
  simp only [phyAssembleBody]
  generalize phyBody m mmode (s.bytes .mpdu 0 m) = body at hlen ⊢
  generalize payloadCrc m body = pc
  generalize headerCrc pc body = hc
  have hfit : 0 + (hc :: pc :: body).length ≤ ByteRegion.phybuf.size := by
    simp only [List.length_cons, ByteRegion.size]
    omega
  exact (setBytes_effect s (by decide) (by decide) hfit).trans { burstCount := .inr hcount }

theorem whitenBody_effect {n : Nat} (hlow : 1 ≤ n) (hhigh : n ≤ 259) (s : State) :
    BodyEffect s (whitenBody n s).2 := by
  have hbytes := setBytes_effect s (g := .phybuf) (a := 0) (bs := (whitenBytes 0x1FF#16 (s.bytes .phybuf 0 n)).1)
    (by decide) (by decide) (by simpa [ByteRegion.size] using hhigh)
  have hlast : n - 1 < ByteRegion.phybuf.size := by
    simp only [ByteRegion.size]
    omega
  exact (hbytes.trans (setByte_effect _ _ (by decide) (by decide) hlast)).trans {}

theorem convInterleaveBody_effect {n : Nat} (hn : 24 ≤ n) {s : State} (hzero : ∀ r < n, (s.burst r).cursor = 0#5) :
    BodyEffect s (convInterleaveBody n s).2 where
  cursors h q hq :=
    (cursorsBehind_convLoop hn (s.byte .phybuf) (cursorsBehind_start hn h hzero) q hq).1

theorem tsmaAssignBody_effect (nb : Nat) (pat : BitVec 3) (s : State) : BodyEffect s (tsmaAssignBody nb pat s).2 where
  cursors := Bursts.CursorsLegal.of_eq fun q _ => by
    simp only [tsmaAssignBody]
    rw [rec_put_cursor _ ?_, tsmaExtension_cursor, tsmaCore_cursor]
    rfl

theorem syncEncodeBody_effect (pat : BitVec 3) (s : State) : BodyEffect s (syncEncodeBody pat s).2 where
  cursors h := h.put syncRecord (Nat.zero_le _)

theorem finishBursts_effect {nb : Nat} (hnb : nb ≤ 260) (s : State) : BodyEffect s (finishBursts nb s) := by
  have hcursor : ∀ q < 260, ((finishBursts nb s).bursts.rec q).cursor = (s.bursts.rec q).cursor := by
    intro q _
    have := finishBursts_burst nb hnb s q
    unfold State.burst at this
    rw [this]
    split <;> rfl
  rw [finishBursts_frame nb hnb s]
  exact { cursors := Bursts.CursorsLegal.of_eq hcursor }

theorem phyEncodeBursts_effect {mlen : Nat} (h : mlen ≤ 255) (pat : BitVec 3) (mmode : BitVec 2) (s : State) :
    BodyEffect s (phyEncodeBursts mlen pat mmode s) := by
  obtain ⟨hlow, hhigh⟩ := numBurstsOf_bounds h
  have hassemble := phyAssembleBody_effect h mmode s
  have hwhiten := whitenBody_effect (by omega) hhigh (phyAssembleBody mlen mmode s).2
  have hclear := burstClearBody_effect (n := numBurstsOf mlen) (by omega)
    (whitenBody (numBurstsOf mlen) (phyAssembleBody mlen mmode s).2).2
  refine hassemble.trans (hwhiten.trans (hclear.trans (.trans (convInterleaveBody_effect hlow fun r hr => ?_)
    ((finishBursts_effect (by omega) _).trans (tsmaAssignBody_effect _ pat _)))))
  rw [burstClearBody_burst _ (by omega), if_pos hr]
  rfl

theorem phyEncodeBody_effect {mlen : Nat} (h : mlen ≤ 255) (pat : BitVec 3) (mmode : BitVec 2) (s : State) :
    BodyEffect s (phyEncodeBody mlen pat mmode s).2 :=
  (phyEncodeBursts_effect h pat mmode s).trans {}

theorem sendBody_effect {len : Nat} (prio : Bool) {mpfv : Byte} {s : State}
    (h : mpduLength s len (sendMpf mpfv) ≤ 255) : BodyEffect s (sendBody len prio mpfv s).2 := by
  have hencoded := (macEncodeBody_effect mpfv h).trans
    (phyEncodeBody_effect h (sendPattern prio s.epc) 0#2 (macEncodeBody len (sendMpf mpfv) mpfv s).2)
  simp only [sendBody]
  split
  · exact (hencoded.trans (syncEncodeBody_effect (sendPattern prio s.epc) _)).trans {}
  · exact hencoded.trans {}

end Sys2Proof.Machine
end

section
/-! How a command ends, and the two invariants of every step: a legal state stays legal, and locked bytes stay. -/

namespace Sys2Proof.Machine

/-! ### The ends of a command (30_encoding.md R97; 60_exceptions.md R166, R167, R175) -/

/-- The error codes the CORE raises (R166, R167). -/
def ErrorCode.Raised : ErrorCode → Prop
  | .configError | .payloadTooLong | .illegalCommand | .operandRange => True
  | .ok | .transceiverNotFound | .transceiverIo => False

theorem ErrorCode.Raised.code_cases {c : ErrorCode} (h : c.Raised) :
    c.code = 1#8 ∨ c.code = 2#8 ∨ c.code = 5#8 ∨ c.code = 6#8 := by
  cases c <;> simp_all [ErrorCode.Raised, ErrorCode.code]

/-- The three ways a command word ends: in an error, in an error of PHY_ENCODE or SEND, or with its body done. -/
inductive CommandEnd (s : State) : State → Prop where
  | failed (op : Byte) {c : ErrorCode} (hc : c.Raised) : CommandEnd s (s.failed op c.code)
  | failedF0 (op : Byte) {c : ErrorCode} (hc : c.Raised) : CommandEnd s (s.failed op c.code).clearF0
  | completed (op : Byte) (v : Word) {t : State} (h : BodyEffect (s.setLastOp op) t) : CommandEnd s (t.complete v)

section
variable {m : Mnemonic} {check : State → CheckResult} {body : State → Word × State} {s t : State}
  {l : List (Bool × ErrorCode)}

/-- A command whose checks are the list `l` ends in one of the three ways, provided that the list's codes are raised
ones and the body keeps to its effect once the checks have passed. -/
theorem runCommand_end (h : runCommand m check body s = .next t)
    (hbody : (∀ p ∈ l, p.1 = false) → BodyEffect (s.setLastOp m.opcode) (body (s.setLastOp m.opcode)).2)
    (hcheck : check (s.setLastOp m.opcode) = firstError l := by rfl)
    (hcodes : ∀ p ∈ l, p.2.Raised := by simp [ErrorCode.Raised]) : CommandEnd s t := by
  rcases runCommand_cases h with ⟨c, herr, rfl⟩ | ⟨hok, rfl⟩
  · exact .failed _ (hcodes _ (firstError_mem (hcheck ▸ herr)))
  · exact .completed _ _ (hbody ((firstError_eq_none_iff l).1 (hcheck ▸ hok)))

/-- The same for PHY_ENCODE and SEND. -/
theorem runCommandF0_end (h : runCommandF0 m check body s = .next t)
    (hbody : (∀ p ∈ l, p.1 = false) → BodyEffect (s.setLastOp m.opcode) (body (s.setLastOp m.opcode)).2)
    (hcheck : check (s.setLastOp m.opcode) = firstError l := by rfl)
    (hcodes : ∀ p ∈ l, p.2.Raised := by simp [ErrorCode.Raised]) : CommandEnd s t := by
  rcases runCommandF0_cases h with ⟨c, herr, rfl⟩ | ⟨hok, rfl⟩
  · exact .failedF0 _ (hcodes _ (firstError_mem (hcheck ▸ herr)))
  · exact .completed _ _ (hbody ((firstError_eq_none_iff l).1 (hcheck ▸ hok)))

/-- A command without checks. -/
theorem runCommand_end_unchecked (h : runCommand m (fun _ => none) body s = .next t)
    (hbody : BodyEffect (s.setLastOp m.opcode) (body (s.setLastOp m.opcode)).2) : CommandEnd s t :=
  runCommand_end (l := []) h fun _ => hbody

end

/-- Every instruction ends in one of the three ways. -/
theorem exec_end {i : Instr} {s t : State} (h : exec i s = .next t) : CommandEnd s t := by
  unfold exec at h
  cases i with
  | nop => exact runCommand_end_unchecked h {}
  | epcLoad => exact runCommand_end_unchecked h {}
  | epcCommit => exact runCommand_end_unchecked h {}
  | aesBlock => exact runCommand_end_unchecked h (aesBlockBody_effect _)
  | cmacSubkeys => exact runCommand_end_unchecked h (writeSubkeys_effect _)
  | cmac start len ivp => exact runCommand_end h fun _ => cmacBody_effect _ _ _ _
  | burstClear n =>
    refine runCommand_end h fun hok => burstClearBody_effect ?_ _
    simpa [burstRecords] using hok
  | writeSubPacketBit r bit =>
    refine runCommand_end h fun hok => writeSubPacketBitBody_effect _ ?_
    have hcursor := hok _ (.tail _ (.head _))
    simpa [dataBitsPerBurst] using hcursor
  | writeBitIdx r idx bit => exact runCommand_end h fun _ => setBurst_effect _ rfl
  | addMidamble r => exact runCommand_end h fun _ => setBurst_effect _ rfl
  | diffMsk r => exact runCommand_end h fun _ => setBurst_effect _ rfl
  | puncture r => exact runCommand_end h fun _ => setBurst_effect _ rfl
  | ctrCrypt start len =>
    refine runCommand_end h fun hok => ctrCryptBody_effect ?_ _
    have hslice := hok _ (.head _)
    simpa [badMpduSlice, mpduSize] using hslice
  | macEncode len mpf mpfv =>
    refine runCommand_end h fun hok => macEncodeBody_effect mpfv ?_
    have hlength := hok _ (.tail _ (.tail _ (.head _)))
    simpa [tooLong, maxMpduLen] using hlength
  | numBursts n => exact runCommand_end h fun _ => {}
  | phyAssemble mlen mmode =>
    refine runCommand_end h fun hok => phyAssembleBody_effect ?_ _ _
    simpa [tooLong, maxMpduLen] using hok
  | crc8 bstart blen => exact runCommand_end h fun _ => {}
  | whiten n =>
    refine runCommand_end h fun hok => ?_
    obtain ⟨hlow, hhigh⟩ : ¬n.toNat < 1 ∧ n.toNat ≤ 259 := by simpa [maxDataBursts] using hok
    exact whitenBody_effect (by omega) hhigh _
  | convInterleave n =>
    refine runCommand_end h fun hok => ?_
    obtain ⟨hlow, _⟩ := Bool.or_eq_false_iff.1 (hok _ (.head _))
    have hzero := hok _ (.tail _ (.head _))
    exact convInterleaveBody_effect (Nat.not_lt.1 (of_decide_eq_false hlow)) (by simpa [cursorBusy] using hzero)
  | tsmaAssign nb pat => exact runCommand_end h fun _ => tsmaAssignBody_effect _ _ _
  | lfsrStep => exact runCommand_end_unchecked h {}
  | calcF0 => exact runCommand_end h fun _ => {}
  | crc2 bstart blen => exact runCommand_end h fun _ => {}
  | syncEncode pat => exact runCommand_end h fun _ => syncEncodeBody_effect _ _
  | tsmaPattern counter => exact runCommand_end_unchecked h {}
  | phyEncode mlen pat mmode =>
    refine runCommandF0_end h fun hok => phyEncodeBody_effect ?_ _ _ _
    have hlength := hok _ (.tail _ (.head _))
    simpa [tooLong, maxMpduLen] using hlength
  | send len prio mpfv =>
    refine runCommandF0_end h fun hok => sendBody_effect _ ?_
    have hlength := hok _ (.tail _ (.tail _ (.head _)))
    simpa [tooLong, maxMpduLen] using hlength

/-- Every command word issued ends in one of the three ways (R94, R96). -/
theorem issueCommand_end {w : Word} {s t : State} (h : issueCommand w s = .next t) : CommandEnd s t := by
  rcases issueCommand_cases w s with ⟨i, _, hi⟩ | ⟨e, _, he⟩
  · exact exec_end (hi ▸ h)
  · obtain rfl := Host.Outcome.next.inj (he.symm.trans h)
    exact .failed (opcodeField w) (c := .illegalCommand) trivial

/-- What a step without a reset can do: nothing when idle, or set the response only, or run a command word, or write one
location that is not CMD. -/
theorem step_cases {s t : State} (hreset : s.hostQueue.head? ≠ some .reset) (h : step s = .next t) :
    t = s ∨ ∃ rest, (∃ response, t = { s with hostQueue := rest, busResponse := response }) ∨
      CommandEnd (State.answer { s with hostQueue := rest } 0) t ∨
      ∃ a n v l, locate a n = some l ∧ t = (State.writeLoc { s with hostQueue := rest } v l).answer 0 := by
  cases hq : s.hostQueue with
  | nil => exact .inl (Host.Outcome.next.inj ((step_idle hq).symm.trans h)).symm
  | cons e rest =>
    rw [step_cons hq] at h
    refine .inr ⟨rest, ?_⟩
    rcases serve_cases e { s with hostQueue := rest } with
      ⟨a, n, l, _, _, hs⟩ | ⟨a, n, v, _, _, hs⟩ | ⟨a, n, v, _, _, hs⟩ | ⟨a, n, v, l, _, hloc, _, hs⟩ | ⟨rfl, _⟩
    · exact .inl ⟨_, (Host.Outcome.next.inj (hs.symm.trans h)).symm⟩
    · exact .inl ⟨_, (Host.Outcome.next.inj (hs.symm.trans h)).symm⟩
    · exact .inr (.inl (issueCommand_end (hs.symm.trans h)))
    · exact .inr (.inr ⟨a, n, v, l, hloc, (Host.Outcome.next.inj (hs.symm.trans h)).symm⟩)
    · simp [hq] at hreset

/-! ### Locked bytes (10_state.md R28, R48, R49) -/

/-- KEY_LOCK and KEY stay from `s` to `t` where KEY_LOCK is 1, and EUI_LOCK and EUI64 where EUI_LOCK is 1. -/
def LocksKept (s t : State) : Prop :=
  (s.ctrl.keyLock = true → t.ctrl.keyLock = true ∧ ∀ i < 16, t.byte .key i = s.byte .key i) ∧
  (s.ctrl.euiLock = true → t.ctrl.euiLock = true ∧ ∀ i < 8, t.byte .eui64 i = s.byte .eui64 i)

/-- CTRL unchanged and memory unchanged below AES_IN. -/
theorem locksKept_of_read {s t : State} (hctrl : t.ctrl = s.ctrl) (hread : ∀ a < 0x118, t.mem.read a = s.mem.read a) :
    LocksKept s t := by
  refine ⟨fun hk => ⟨hctrl ▸ hk, fun i hi => hread _ ?_⟩, fun he => ⟨hctrl ▸ he, fun i hi => hread _ ?_⟩⟩
  · simp only [ByteRegion.base]
    omega
  · simp only [ByteRegion.base]
    omega

theorem CommandEnd.locksKept {s t : State} (h : CommandEnd s t) : LocksKept s t := by
  cases h with
  | failed op hc => exact locksKept_of_read rfl fun _ _ => rfl
  | failedF0 op hc => exact locksKept_of_read rfl fun _ _ => rfl
  | completed op v h => exact locksKept_of_read h.ctrl fun _ ha => h.stores.read_locked ha

/-- A store in a region the host may write leaves the bytes of a locked region. -/
theorem setByte_byte_locked {s : State} {g h : ByteRegion} {i j : Nat} (hi : i < g.size) (hj : j < h.size)
    (hopen : s.writable g = true) (hlocked : s.writable h = false) (v : Byte) :
    (s.setByte g i v).byte h j = s.byte h j := by
  refine Memory.read_write_other _ _ fun e => ?_
  rw [region_unique hj hi e, hopen] at hlocked
  exact Bool.noConfusion hlocked

/-- A host write keeps what is locked: CTRL's locks are set-only, and a locked region's bytes are not writable. -/
theorem writeLoc_locksKept {a : HostAddr} {n : AccessSize} {l : Location} (hloc : locate a n = some l) (s : State)
    (v : Word) : LocksKept s (s.writeLoc v l) := by
  cases l with
  | reg r =>
    cases r
    case ctrl =>
      exact ⟨fun hk => ⟨Bool.or_eq_true_iff.2 (.inl hk), fun _ _ => rfl⟩,
        fun he => ⟨Bool.or_eq_true_iff.2 (.inl he), fun _ _ => rfl⟩⟩
    all_goals exact locksKept_of_read rfl fun _ _ => rfl
  | byte g i =>
    have hi := locate_byte_inRange hloc
    cases hopen : s.writable g with
    | false =>
      rw [writeLoc_byte_locked hopen]
      exact locksKept_of_read rfl fun _ _ => rfl
    | true =>
      rw [writeLoc_byte_open hopen]
      exact ⟨fun hk => ⟨hk, fun j hj => setByte_byte_locked hi hj hopen (by simp [State.writable, hk]) _⟩,
        fun he => ⟨he, fun j hj => setByte_byte_locked hi hj hopen (by simp [State.writable, he]) _⟩⟩
  | burstBits r k => exact locksKept_of_read rfl fun _ _ => rfl
  | burstCarrier r => exact locksKept_of_read rfl fun _ _ => rfl
  | burstTrb r => exact locksKept_of_read rfl fun _ _ => rfl
  | burstCursor r => exact locksKept_of_read rfl fun _ _ => rfl
  | burstBitLength r => exact locksKept_of_read rfl fun _ _ => rfl

/-- Settles O15: no command stores to KEY or EUI64 or writes CTRL, and a host write keeps what is locked. -/
theorem lockedKeyAndEuiStayUntilReset : Obligations.LockedKeyAndEuiStayUntilReset := by
  intro s t hreset h
  rcases step_cases hreset h with rfl | ⟨rest, ⟨_, rfl⟩ | hend | ⟨a, n, v, l, hloc, rfl⟩⟩
  · exact locksKept_of_read rfl fun _ _ => rfl
  · exact locksKept_of_read rfl fun _ _ => rfl
  · exact hend.locksKept
  · exact writeLoc_locksKept hloc { s with hostQueue := rest } v

/-! ### Legal states (10_state.md R26, R40, R41, R56; 20_memory.md R74) -/

/-- A legal state's fields are all that a state needs to share to be legal too. -/
theorem State.Legal.of_eq {s t : State} (h : s.Legal) (hmem : t.mem = s.mem := by rfl)
    (hbursts : t.bursts = s.bursts := by rfl) (hstatus : t.status = s.status := by rfl)
    (hresult : t.result = s.result := by rfl) (hcount : t.numBursts = s.numBursts := by rfl)
    (hlength : t.mpduLen = s.mpduLen := by rfl) : t.Legal where
  memWf := hmem ▸ h.memWf
  memMapped := hmem ▸ h.memMapped
  cursors := by
    unfold State.burst
    rw [hbursts]
    exact h.cursors
  codes := hstatus ▸ h.codes
  failedResult := hstatus ▸ hresult ▸ h.failedResult
  burstCount := hcount ▸ h.burstCount
  mpduLength := hlength ▸ h.mpduLength

theorem reset_legal : State.reset.Legal where
  memWf := reset_mem_wf
  memMapped := fun c hc => absurd hc (by simp [State.reset])
  cursors := fun r hr => by
    simp [State.burst, Bursts.rec, Vector.getD, State.reset, BurstRec.cleared, hr]
  codes := .inl rfl
  failedResult := fun _ => rfl
  burstCount := .inl rfl
  mpduLength := .inl rfl

/-- A failed command leaves a code that is raised and RESULT 0. -/
theorem failed_legal {s : State} (h : s.Legal) (op : Byte) {c : ErrorCode} (hc : c.Raised) :
    (s.failed op c.code).Legal :=
  { h with codes := .inr hc.code_cases, failedResult := fun _ => rfl }

theorem CommandEnd.legal {s t : State} (h : CommandEnd s t) (hs : s.Legal) : t.Legal := by
  cases h with
  | failed op hc => exact failed_legal hs op hc
  | failedF0 op hc => exact (failed_legal hs op hc).of_eq
  | completed op v h =>
    obtain ⟨hwf, hmapped⟩ := h.stores.legal ⟨hs.memWf, hs.memMapped⟩
    exact
      { memWf := hwf
        memMapped := hmapped
        cursors := h.cursors hs.cursors
        codes := .inl rfl
        failedResult := fun hne => absurd rfl hne
        burstCount := h.burstCount.elim (fun e => e ▸ hs.burstCount) .inr
        mpduLength := h.mpduLength.elim (fun e => e ▸ hs.mpduLength) .inr }

/-- A host write of a record's BITS, CARRIER or TRB leaves the cursors. -/
theorem setBurst_legal {s : State} (h : s.Legal) {r : Nat} {x : BurstRec} (hx : x.cursor = (s.burst r).cursor) :
    (s.setBurst r x).Legal :=
  { h with cursors := (setBurst_effect s hx).cursors h.cursors }

/-- A byte stored inside a region keeps a state legal. -/
theorem setByte_legal {s : State} (h : s.Legal) {g : ByteRegion} {i : Nat} (hi : i < g.size) (v : Byte) :
    (s.setByte g i v).Legal := by
  obtain ⟨hwf, hmapped⟩ := Memory.Legal.store ⟨h.memWf, h.memMapped⟩ (bs := [v]) hi
  exact { h with memWf := hwf, memMapped := hmapped }

theorem writeLoc_legal {a : HostAddr} {n : AccessSize} {l : Location} (hloc : locate a n = some l) {s : State}
    (h : s.Legal) (v : Word) : (s.writeLoc v l).Legal := by
  cases l with
  | reg r => cases r <;> exact h.of_eq
  | byte g i =>
    cases hopen : s.writable g with
    | false => rwa [writeLoc_byte_locked hopen]
    | true =>
      rw [writeLoc_byte_open hopen]
      exact setByte_legal h (locate_byte_inRange hloc) _
  | burstBits r k => exact setBurst_legal h rfl
  | burstCarrier r => exact setBurst_legal h rfl
  | burstTrb r => exact setBurst_legal h rfl
  | burstCursor r => exact h
  | burstBitLength r => exact h

/-- Settles O22: a reset leaves a legal state; a response, a command's end and a host write each keep one legal. -/
theorem stepKeepsStateLegal : Obligations.StepKeepsStateLegal := by
  intro s t hs h
  by_cases hreset : s.hostQueue.head? = some .reset
  · obtain ⟨rest, hq⟩ := List.head?_eq_some_iff.1 hreset
    rw [step_cons hq] at h
    obtain rfl := Host.Outcome.next.inj h
    exact reset_legal.of_eq
  · rcases step_cases hreset h with rfl | ⟨rest, ⟨_, rfl⟩ | hend | ⟨a, n, v, l, hloc, rfl⟩⟩
    · exact hs
    · exact hs.of_eq
    · exact hend.legal hs.of_eq
    · exact (writeLoc_legal hloc (s := { s with hostQueue := rest }) hs.of_eq v).of_eq

end Sys2Proof.Machine
end

section
/-! STATUS, RESULT and EVENTS are write-only for the commands (10_state.md R57): what runs with other values of them. -/

namespace Sys2Proof.Machine

/-- The event bits set in either. -/
def Events.or (e f : Events) : Events where
  persistReq := e.persistReq || f.persistReq
  outValid := e.outValid || f.outValid
  err := e.err || f.err

/-- No event bit. -/
def Events.none : Events := { persistReq := false, outValid := false, err := false }

theorem Events.or_none (e : Events) : e.or .none = e := by
  simp [Events.or, Events.none]

theorem Events.or_assoc (e f g : Events) : (e.or f).or g = e.or (f.or g) := by
  simp [Events.or, Bool.or_assoc]

theorem Events.setPersistReq_eq_or (e : Events) : e.setPersistReq = e.or (Events.none.setPersistReq) := by
  simp [Events.or, Events.none, Events.setPersistReq]

theorem Events.setOutValid_eq_or (e : Events) : e.setOutValid = e.or (Events.none.setOutValid) := by
  simp [Events.or, Events.none, Events.setOutValid]

theorem Events.setErr_eq_or (e : Events) : e.setErr = e.or (Events.none.setErr) := by
  simp [Events.or, Events.none, Events.setErr]

/-- The state with other values in STATUS, RESULT and EVENTS. -/
def State.withReports (s : State) (st : Status) (v : Word) (e : Events) : State :=
  { s with status := st, result := v, events := e }

/-! ### The other fields, and what is read from them -/

section
variable (s : State) (st : Status) (v : Word) (e : Events)

@[simp] theorem withReports_status : (s.withReports st v e).status = st := rfl
@[simp] theorem withReports_result : (s.withReports st v e).result = v := rfl
@[simp] theorem withReports_events : (s.withReports st v e).events = e := rfl
@[simp] theorem withReports_ctrl : (s.withReports st v e).ctrl = s.ctrl := rfl
@[simp] theorem withReports_shortAddrOvr : (s.withReports st v e).shortAddrOvr = s.shortAddrOvr := rfl
@[simp] theorem withReports_chanA : (s.withReports st v e).chanA = s.chanA := rfl
@[simp] theorem withReports_chanB : (s.withReports st v e).chanB = s.chanB := rfl
@[simp] theorem withReports_bC : (s.withReports st v e).bC = s.bC := rfl
@[simp] theorem withReports_bC0 : (s.withReports st v e).bC0 = s.bC0 := rfl
@[simp] theorem withReports_upg : (s.withReports st v e).upg = s.upg := rfl
@[simp] theorem withReports_nCo : (s.withReports st v e).nCo = s.nCo := rfl
@[simp] theorem withReports_epc : (s.withReports st v e).epc = s.epc := rfl
@[simp] theorem withReports_epcLoadval : (s.withReports st v e).epcLoadval = s.epcLoadval := rfl
@[simp] theorem withReports_epcStore : (s.withReports st v e).epcStore = s.epcStore := rfl
@[simp] theorem withReports_f0 : (s.withReports st v e).f0 = s.f0 := rfl
@[simp] theorem withReports_numBursts : (s.withReports st v e).numBursts = s.numBursts := rfl
@[simp] theorem withReports_mpduLen : (s.withReports st v e).mpduLen = s.mpduLen := rfl
@[simp] theorem withReports_crcHdr : (s.withReports st v e).crcHdr = s.crcHdr := rfl
@[simp] theorem withReports_crcPay : (s.withReports st v e).crcPay = s.crcPay := rfl
@[simp] theorem withReports_tsmaLfsr : (s.withReports st v e).tsmaLfsr = s.tsmaLfsr := rfl
@[simp] theorem withReports_whitenLfsr : (s.withReports st v e).whitenLfsr = s.whitenLfsr := rfl
@[simp] theorem withReports_convSr : (s.withReports st v e).convSr = s.convSr := rfl
@[simp] theorem withReports_outInfo : (s.withReports st v e).outInfo = s.outInfo := rfl
@[simp] theorem withReports_mem : (s.withReports st v e).mem = s.mem := rfl
@[simp] theorem withReports_bursts : (s.withReports st v e).bursts = s.bursts := rfl
@[simp] theorem withReports_hostQueue : (s.withReports st v e).hostQueue = s.hostQueue := rfl
@[simp] theorem withReports_busResponse : (s.withReports st v e).busResponse = s.busResponse := rfl

@[simp] theorem withReports_byte (g : ByteRegion) : (s.withReports st v e).byte g = s.byte g := rfl
@[simp] theorem withReports_bytes (g : ByteRegion) (a n : Nat) :
    (s.withReports st v e).bytes g a n = s.bytes g a n := rfl
@[simp] theorem withReports_block (g : ByteRegion) : (s.withReports st v e).block g = s.block g := rfl
@[simp] theorem withReports_burst (r : Nat) : (s.withReports st v e).burst r = s.burst r := rfl

@[simp] theorem withReports_setLastOp (op : Byte) :
    (s.withReports st v e).setLastOp op = (s.setLastOp op).withReports { st with lastOp := op } v e := rfl
@[simp] theorem withReports_setByte (g : ByteRegion) (i : Nat) (x : Byte) :
    (s.withReports st v e).setByte g i x = (s.setByte g i x).withReports st v e := rfl
@[simp] theorem withReports_setBytes (g : ByteRegion) (a : Nat) (bs : List Byte) :
    (s.withReports st v e).setBytes g a bs = (s.setBytes g a bs).withReports st v e := rfl
@[simp] theorem withReports_setBlock (g : ByteRegion) (x : Block) :
    (s.withReports st v e).setBlock g x = (s.setBlock g x).withReports st v e := rfl
@[simp] theorem withReports_setBurst (r : Nat) (x : BurstRec) :
    (s.withReports st v e).setBurst r x = (s.setBurst r x).withReports st v e := rfl

@[simp] theorem withReports_f0Value : f0Value (s.withReports st v e) = f0Value s := rfl

@[simp] theorem withReports_ivBase : ivBase (s.withReports st v e) = ivBase s := by
  simp [ivBase]
@[simp] theorem withReports_cmacIv : cmacIv (s.withReports st v e) = cmacIv s := by
  simp [cmacIv]
@[simp] theorem withReports_cmacMessage (start len : Nat) (ivp : Bool) :
    cmacMessage start len ivp (s.withReports st v e) = cmacMessage start len ivp s := by
  simp [cmacMessage]
@[simp] theorem withReports_keystream (n : Nat) : keystream (s.withReports st v e) n = keystream s n := by
  simp [keystream, ctrIv]
@[simp] theorem withReports_ctrXor (bs : List Byte) : ctrXor (s.withReports st v e) bs = ctrXor s bs := by
  simp [ctrXor]
@[simp] theorem withReports_mpduLength (len : Nat) (mpf : Bool) :
    mpduLength (s.withReports st v e) len mpf = mpduLength s len mpf := rfl
@[simp] theorem withReports_macHeader (mpf : Bool) : macHeader (s.withReports st v e) mpf = macHeader s mpf := rfl
@[simp] theorem withReports_macAddr : macAddr (s.withReports st v e) = macAddr s := rfl
@[simp] theorem withReports_mpduUnsigned (len : Nat) (mpf : Bool) (mpfv : Byte) :
    mpduUnsigned (s.withReports st v e) len mpf mpfv = mpduUnsigned s len mpf mpfv := by
  simp [mpduUnsigned, mpduPrefix, mpduPlain]
@[simp] theorem withReports_mpduTag (len : Nat) (mpf : Bool) (mpfv : Byte) :
    mpduTag (s.withReports st v e) len mpf mpfv = mpduTag s len mpf mpfv := by
  simp [mpduTag]
@[simp] theorem withReports_mpduBytes (len : Nat) (mpf : Bool) (mpfv : Byte) :
    mpduBytes (s.withReports st v e) len mpf mpfv = mpduBytes s len mpf mpfv := by
  simp [mpduBytes]
@[simp] theorem withReports_syncSeqOpen (pat : BitVec 3) :
    syncSeqOpen (s.withReports st v e) pat = syncSeqOpen s pat := rfl
@[simp] theorem withReports_syncCrc (pat : BitVec 3) : syncCrc (s.withReports st v e) pat = syncCrc s pat := by
  simp only [syncCrc, withReports_syncSeqOpen]
@[simp] theorem withReports_syncSeq (pat : BitVec 3) : syncSeq (s.withReports st v e) pat = syncSeq s pat := by
  simp only [syncSeq, withReports_syncSeqOpen, withReports_syncCrc]

end

/-! ### Bodies -/

/-- A body that, from `s` and other values in STATUS, RESULT and EVENTS, does the same, keeps those values, and sets the
event bits `set`. -/
def PassesReports (set : Events) (body : State → Word × State) (s : State) : Prop :=
  ∀ st v e, body (s.withReports st v e) = ((body s).1, (body s).2.withReports st v (e.or set))

/-- A body that sets no event bit. -/
theorem PassesReports.of_quiet {body : State → Word × State} {s : State}
    (h : ∀ st v e, body (s.withReports st v e) = ((body s).1, (body s).2.withReports st v e)) :
    PassesReports .none body s := by
  intro st v e
  rw [h, Events.or_none]

/-- `f` does the same from `s` whatever STATUS and RESULT are, and sets the same event bits whatever EVENTS is. -/
def IgnoresReports (f : State → Host.Outcome State Fault Refusal) (s : State) : Prop :=
  ∃ (t : State) (set : Events), ∀ st v e, f (s.withReports st v e) = .next { t with events := e.or set }

section
variable {m : Mnemonic} {check : State → CheckResult} {body : State → Word × State} {s : State} {set : Events}

/-- A command ignores the three registers if its checks do not read them and its body passes them on: LAST_OP, LAST_ERR
and RESULT are all written, whichever way it ends (R96, R97, R175). -/
theorem runCommand_ignoresReports (hbody : PassesReports set body (s.setLastOp m.opcode))
    (hcheck : ∀ st v e, check ((s.setLastOp m.opcode).withReports st v e) = check (s.setLastOp m.opcode) := by
      intros; rfl) : IgnoresReports (runCommand m check body) s := by
  cases hc : check (s.setLastOp m.opcode) with
  | some c =>
    refine ⟨(s.setLastOp m.opcode).raiseError c, Events.none.setErr, fun st v e => ?_⟩
    rw [runCommand_error (by rw [withReports_setLastOp, hcheck, hc]), ← Events.setErr_eq_or]
    rfl
  | none =>
    refine ⟨((body (s.setLastOp m.opcode)).2.withReports { lastErr := 0, lastOp := m.opcode } 0 .none).complete
      (body (s.setLastOp m.opcode)).1, set, fun st v e => ?_⟩
    rw [runCommand_ok (by rw [withReports_setLastOp, hcheck, hc]), withReports_setLastOp, hbody]
    rfl

/-- The same for PHY_ENCODE and SEND. -/
theorem runCommandF0_ignoresReports (hbody : PassesReports set body (s.setLastOp m.opcode))
    (hcheck : ∀ st v e, check ((s.setLastOp m.opcode).withReports st v e) = check (s.setLastOp m.opcode) := by
      intros; rfl) : IgnoresReports (runCommandF0 m check body) s := by
  cases hc : check (s.setLastOp m.opcode) with
  | some c =>
    refine ⟨((s.setLastOp m.opcode).raiseError c).clearF0, Events.none.setErr, fun st v e => ?_⟩
    rw [runCommandF0_error (by rw [withReports_setLastOp, hcheck, hc]), ← Events.setErr_eq_or]
    rfl
  | none =>
    refine ⟨((body (s.setLastOp m.opcode)).2.withReports { lastErr := 0, lastOp := m.opcode } 0 .none).complete
      (body (s.setLastOp m.opcode)).1, set, fun st v e => ?_⟩
    rw [runCommandF0_ok (by rw [withReports_setLastOp, hcheck, hc]), withReports_setLastOp, hbody]
    rfl

end

section
variable (s : State) (st : Status) (v : Word) (e : Events)

theorem writeSubkeys_withReports :
    writeSubkeys (s.withReports st v e) = (writeSubkeys s).withReports st v e := by
  rw [writeSubkeys_eq, withReports_block, withReports_setBlock, withReports_setBlock, ← writeSubkeys_eq]

theorem aesBlockBody_withReports : aesBlockBody (s.withReports st v e) =
    ((aesBlockBody s).1, (aesBlockBody s).2.withReports st v e) := by
  simp only [aesBlockBody, withReports_block, withReports_setBlock]

theorem cmacSubkeysBody_withReports : cmacSubkeysBody (s.withReports st v e) =
    ((cmacSubkeysBody s).1, (cmacSubkeysBody s).2.withReports st v e) := by
  simp only [cmacSubkeysBody, writeSubkeys_withReports]

theorem cmacBody_withReports (start len : Nat) (ivp : Bool) : cmacBody start len ivp (s.withReports st v e) =
    ((cmacBody start len ivp s).1, (cmacBody start len ivp s).2.withReports st v e) := by
  simp only [cmacBody, withReports_block, withReports_cmacMessage, withReports_setBlock, writeSubkeys_withReports]

theorem ctrCryptBody_withReports (start len : Nat) : ctrCryptBody start len (s.withReports st v e) =
    ((ctrCryptBody start len s).1, (ctrCryptBody start len s).2.withReports st v e) := by
  simp only [ctrCryptBody, withReports_bytes, withReports_ctrXor, withReports_setBytes]

theorem phyAssembleBody_withReports (m : Nat) (mmode : BitVec 2) : phyAssembleBody m mmode (s.withReports st v e) =
    ((phyAssembleBody m mmode s).1, (phyAssembleBody m mmode s).2.withReports st v e) := by
  simp only [phyAssembleBody, withReports_bytes, withReports_setBytes]
  generalize s.setBytes .phybuf 0 _ = t
  rfl

theorem whitenBody_withReports (n : Nat) : whitenBody n (s.withReports st v e) =
    ((whitenBody n s).1, (whitenBody n s).2.withReports st v e) := by
  simp only [whitenBody, withReports_byte, withReports_bytes, withReports_setByte, withReports_setBytes]
  generalize State.setByte _ .phybuf _ _ = t
  rfl

theorem burstClearBody_withReports (n : Nat) : burstClearBody n (s.withReports st v e) =
    ((burstClearBody n s).1, (burstClearBody n s).2.withReports st v e) := rfl

theorem convInterleaveBody_withReports (n : Nat) : convInterleaveBody n (s.withReports st v e) =
    ((convInterleaveBody n s).1, (convInterleaveBody n s).2.withReports st v e) := by
  simp only [convInterleaveBody, withReports_byte, withReports_bursts]
  rfl

theorem finishBursts_withReports (nb : Nat) :
    finishBursts nb (s.withReports st v e) = (finishBursts nb s).withReports st v e :=
  (forRange_map 0 nb _ _ (fun t : State => t.withReports st v e) s fun _ _ _ _ => rfl).symm

theorem tsmaAssignBody_withReports (nb : Nat) (pat : BitVec 3) : tsmaAssignBody nb pat (s.withReports st v e) =
    ((tsmaAssignBody nb pat s).1, (tsmaAssignBody nb pat s).2.withReports st v e) := by
  simp only [tsmaAssignBody, withReports_upg, withReports_bC, withReports_crcHdr, withReports_crcPay,
    withReports_bursts]
  rfl

theorem syncEncodeBody_withReports (pat : BitVec 3) : syncEncodeBody pat (s.withReports st v e) =
    ((syncEncodeBody pat s).1, (syncEncodeBody pat s).2.withReports st v e) := by
  simp only [syncEncodeBody, withReports_syncCrc, withReports_syncSeq, withReports_bC, withReports_upg,
    withReports_setBurst]

theorem phyEncodeBursts_withReports (mlen : Nat) (pat : BitVec 3) (mmode : BitVec 2) :
    phyEncodeBursts mlen pat mmode (s.withReports st v e) =
      (phyEncodeBursts mlen pat mmode s).withReports st v e := by
  simp only [phyEncodeBursts, phyAssembleBody_withReports, whitenBody_withReports, burstClearBody_withReports,
    convInterleaveBody_withReports, finishBursts_withReports, tsmaAssignBody_withReports]

end

/-- PERSIST_REQ where the increment rolls the low byte over, and no bit otherwise (40_control.md R102). -/
def rolloverEvents (s : State) : Events :=
  if (s.epc + 1).setWidth 8 == 0#8 then Events.none.setPersistReq else .none

theorem epcIncrement_withReports (s : State) (st : Status) (v : Word) (e : Events) :
    epcIncrement (s.withReports st v e) = (epcIncrement s).withReports st v (e.or (rolloverEvents s)) := by
  have hevents : (if (s.epc + 1).setWidth 8 == 0#8 then e.setPersistReq else e) = e.or (rolloverEvents s) := by
    unfold rolloverEvents
    split
    · exact e.setPersistReq_eq_or
    · exact e.or_none.symm
  rw [← hevents]
  rfl

theorem epcCommitBody_passesReports (s : State) : PassesReports (Events.none.setPersistReq) epcCommitBody s := by
  intro st v e
  rw [← Events.setPersistReq_eq_or]
  rfl

theorem macEncodeBody_passesReports (len : Nat) (mpf : Bool) (mpfv : Byte) (s : State) :
    PassesReports (rolloverEvents s) (macEncodeBody len mpf mpfv) s := by
  intro st v e
  simp only [macEncodeBody, withReports_mpduLength, withReports_mpduBytes, withReports_mpduTag, withReports_setBytes,
    withReports_setBlock, writeSubkeys_withReports]
  generalize hstored : writeSubkeys ((s.setBytes .mpdu 0 (mpduBytes s len mpf mpfv)).setBlock .tag
    (mpduTag s len mpf mpfv)) = stored
  have hepc : stored.epc = s.epc := by
    rw [← hstored, writeSubkeys_epc, setBlock_epc, setBytes_epc]
  have hcounter := epcIncrement_withReports { stored with mpduLen := BitVec.ofNat 9 (mpduLength s len mpf) } st v e
  have hrollover : rolloverEvents { stored with mpduLen := BitVec.ofNat 9 (mpduLength s len mpf) } =
      rolloverEvents s := by
    simp only [rolloverEvents, hepc]
  rw [hrollover] at hcounter
  exact congrArg (Prod.mk _) hcounter

theorem phyEncodeBody_passesReports (mlen : Nat) (pat : BitVec 3) (mmode : BitVec 2) (s : State) :
    PassesReports (Events.none.setOutValid) (phyEncodeBody mlen pat mmode) s := by
  intro st v e
  simp only [phyEncodeBody, phyEncodeBursts_withReports, withReports_f0Value, withReports_events]
  rw [← Events.setOutValid_eq_or]
  rfl

theorem sendBody_passesReports (len : Nat) (prio : Bool) (mpfv : Byte) (s : State) :
    PassesReports ((rolloverEvents s).or ((Events.none.setOutValid).or (Events.none.setOutValid)))
      (sendBody len prio mpfv) s := by
  intro st v e
  simp only [sendBody, withReports_mpduLength, withReports_epc,
    macEncodeBody_passesReports len (sendMpf mpfv) mpfv s st v e]
  rw [phyEncodeBody_passesReports _ _ _ _ st v _, ← Events.or_assoc, ← Events.or_assoc]
  generalize (e.or (rolloverEvents s)).or Events.none.setOutValid = f
  generalize phyEncodeBody _ _ _ _ = p
  rw [← Events.setOutValid_eq_or]
  simp only [withReports_ctrl, syncEncodeBody_withReports]
  cases p.2.ctrl.syncEn <;> rfl

/-- Every command ignores STATUS, RESULT and EVENTS. -/
theorem exec_ignoresReports (i : Instr) (s : State) : IgnoresReports (exec i) s := by
  show IgnoresReports (fun s => exec i s) s
  unfold exec
  cases i with
  | nop => exact runCommand_ignoresReports (.of_quiet fun _ _ _ => rfl)
  | epcLoad => exact runCommand_ignoresReports (.of_quiet fun _ _ _ => rfl)
  | epcCommit => exact runCommand_ignoresReports (epcCommitBody_passesReports _)
  | aesBlock => exact runCommand_ignoresReports (.of_quiet (aesBlockBody_withReports _))
  | cmacSubkeys => exact runCommand_ignoresReports (.of_quiet (cmacSubkeysBody_withReports _))
  | cmac start len ivp => exact runCommand_ignoresReports (.of_quiet fun _ _ _ => cmacBody_withReports _ _ _ _ _ _ _)
  | burstClear n => exact runCommand_ignoresReports (.of_quiet fun _ _ _ => burstClearBody_withReports _ _ _ _ _)
  | writeSubPacketBit r bit => exact runCommand_ignoresReports (.of_quiet fun _ _ _ => rfl)
  | writeBitIdx r idx bit => exact runCommand_ignoresReports (.of_quiet fun _ _ _ => rfl)
  | addMidamble r => exact runCommand_ignoresReports (.of_quiet fun _ _ _ => rfl)
  | diffMsk r => exact runCommand_ignoresReports (.of_quiet fun _ _ _ => rfl)
  | puncture r => exact runCommand_ignoresReports (.of_quiet fun _ _ _ => rfl)
  | ctrCrypt start len =>
    exact runCommand_ignoresReports (.of_quiet fun _ _ _ => ctrCryptBody_withReports _ _ _ _ _ _)
  | macEncode len mpf mpfv => exact runCommand_ignoresReports (macEncodeBody_passesReports _ _ _ _)
  | numBursts n => exact runCommand_ignoresReports (.of_quiet fun _ _ _ => rfl)
  | phyAssemble mlen mmode =>
    exact runCommand_ignoresReports (.of_quiet fun _ _ _ => phyAssembleBody_withReports _ _ _ _ _ _)
  | crc8 bstart blen => exact runCommand_ignoresReports (.of_quiet fun _ _ _ => rfl)
  | whiten n => exact runCommand_ignoresReports (.of_quiet fun _ _ _ => whitenBody_withReports _ _ _ _ _)
  | convInterleave n =>
    exact runCommand_ignoresReports (.of_quiet fun _ _ _ => convInterleaveBody_withReports _ _ _ _ _)
  | tsmaAssign nb pat =>
    exact runCommand_ignoresReports (.of_quiet fun _ _ _ => tsmaAssignBody_withReports _ _ _ _ _ _)
  | lfsrStep => exact runCommand_ignoresReports (.of_quiet fun _ _ _ => rfl)
  | calcF0 => exact runCommand_ignoresReports (.of_quiet fun _ _ _ => rfl)
  | crc2 bstart blen => exact runCommand_ignoresReports (.of_quiet fun _ _ _ => rfl)
  | syncEncode pat => exact runCommand_ignoresReports (.of_quiet fun _ _ _ => syncEncodeBody_withReports _ _ _ _ _)
  | tsmaPattern counter => exact runCommand_ignoresReports (.of_quiet fun _ _ _ => rfl)
  | phyEncode mlen pat mmode => exact runCommandF0_ignoresReports (phyEncodeBody_passesReports _ _ _ _)
  | send len prio mpfv => exact runCommandF0_ignoresReports (sendBody_passesReports _ _ _ _)

/-- Settles O19: one next state, but for the event bits before the command, serves every STATUS, RESULT and EVENTS. -/
theorem commandsNeverReadStatusResultEvents : Obligations.CommandsNeverReadStatusResultEvents := by
  intro i s st v e
  obtain ⟨t, set, h⟩ := exec_ignoresReports i s
  exact ⟨(h st v s.events).trans (h s.status s.result s.events).symm, t, set, h s.status s.result s.events,
    h s.status s.result e⟩

end Sys2Proof.Machine
end

section
/-! What a host access answers (20_memory.md R60 to R65): only legal accesses lead to a location, and what a read of
each location gives. -/

namespace Sys2Proof.Machine

/-! ### Illegal accesses (20_memory.md R62, R65) -/

/-- A byte of a region lies in the region's range of the map (R60). -/
theorem legalAccess_region {a : Nat} (g : ByteRegion) (hlow : g.base ≤ a) (hhigh : a < g.base + g.size) :
    LegalAccess a .byte := by
  cases g <;> simp only [ByteRegion.base, ByteRegion.size] at hlow hhigh <;> simp only [LegalAccess] <;> omega

theorem legalAccess_of_byteLocation {a : Nat} {l : Location} (h : byteLocation a = some l) : LegalAccess a .byte := by
  unfold byteLocation at h
  split at h
  next g hfind =>
    have hin := List.find?_some hfind
    simp only [Bool.and_eq_true, decide_eq_true_eq] at hin
    obtain ⟨hlow, hhigh⟩ := hin
    exact legalAccess_region g hlow hhigh
  next =>
    split at h
    next hbits =>
      have hrecord : ∃ r < 260, 0x1000 + 0x20 * r ≤ a ∧ a ≤ 0x1000 + 0x20 * r + 0x04 :=
        ⟨(a - 0x1000) / 0x20, by omega, by omega, by omega⟩
      simp only [LegalAccess, hrecord, or_true]
    next => simp at h

theorem legalAccess_of_wordLocation {a : Nat} {l : Location} (h : wordLocation a = some l) : LegalAccess a .word := by
  unfold wordLocation at h
  split at h
  next hlow =>
    split at h
    next haligned => exact .inl ⟨hlow, haligned⟩
    next => simp at h
  next =>
    split at h
    next hin =>
      refine .inr ⟨(a - 0x1000) / 0x20, by omega, ?_⟩
      simp only at h
      split at h
      · omega
      · omega
      · omega
      · omega
      · simp at h
    next => simp at h

/-- Only a legal access leads to a location (R62). -/
theorem legalAccess_of_locate {a : HostAddr} {n : AccessSize} {l : Location} (h : locate a n = some l) :
    LegalAccess a.toNat n := by
  cases n with
  | byte => exact legalAccess_of_byteLocation h
  | half => simp [locate] at h
  | word => exact legalAccess_of_wordLocation h

theorem locate_eq_none_of_not_legalAccess {a : HostAddr} {n : AccessSize} (h : ¬LegalAccess a.toNat n) :
    locate a n = none :=
  Option.eq_none_iff_forall_ne_some.2 fun _ hl => h (legalAccess_of_locate hl)

theorem step_read_none {a : HostAddr} {n : AccessSize} (h : locate a n = none) (s : State) :
    step (s.before (.read a n)) = .next s.busError := by
  rw [step_before]
  simp only [serve, State.serveRead, h]

theorem step_write_none {a : HostAddr} {n : AccessSize} (h : locate a n = none) (s : State) (v : Word) :
    step (s.before (.write a n v)) = .next s.busError := by
  rw [step_before]
  simp only [serve, serveWrite, h]

/-- Settles O10: an access that is not legal leads to no location, and both kinds of access then end in a bus error. -/
theorem illegalAccessIsBusError : Obligations.IllegalAccessIsBusError := by
  intro s a n v hillegal
  have hnone := locate_eq_none_of_not_legalAccess hillegal
  exact ⟨step_read_none hnone s, step_write_none hnone s v⟩

/-! ### Registers as read (10_state.md R24 to R47) -/

/-- A word put together from a high and a low part, as a number. -/
theorem toNat_append_eq_add {n m : Nat} (x : BitVec n) (y : BitVec m) :
    (x ++ y).toNat = 2 ^ m * x.toNat + y.toNat := by
  rw [BitVec.toNat_append, ← Nat.shiftLeft_add_eq_or_of_lt y.isLt, Nat.shiftLeft_eq, Nat.mul_comm]

theorem toNat_statusToWord (x : Status) : x.toWord.toNat = 256 * x.lastOp.toNat + x.lastErr.toNat := by
  simp only [Status.toWord, toNat_append_eq_add, BitVec.toNat_ofNat]
  omega

theorem toNat_eventsToWord (e : Events) :
    e.toWord.toNat = e.persistReq.toNat + 2 * e.outValid.toNat + 4 * e.err.toNat := by
  simp only [Events.toWord, toNat_append_eq_add, BitVec.toNat_ofNat, BitVec.toNat_ofBool]
  omega

theorem toNat_ctrlToWord (c : Ctrl) : c.toWord.toNat =
    c.keyLock.toNat + 2 * c.euiLock.toNat + 4 * c.addrLong.toNat + 8 * c.syncEn.toNat + 16 * c.shortOvrEn.toNat := by
  simp only [Ctrl.toWord, toNat_append_eq_add, BitVec.toNat_ofNat, BitVec.toNat_ofBool]
  omega

theorem toNat_outInfoToWord (o : OutInfo) : o.toWord.toNat = o.pattern.toNat + 8 * o.sync.toNat := by
  simp only [OutInfo.toWord, toNat_append_eq_add, BitVec.toNat_ofNat, BitVec.toNat_ofBool]
  omega

/-- The table of what the registers read as is the model's reads of the registers, in the order of the offsets. -/
theorem registerValues_eq_map (s : State) : registerValues s = wordRegs.map fun r => (s.readReg r).toNat := by
  simp (disch := decide) only [registerValues, wordRegs, List.map, State.readReg, toNat_statusToWord,
    toNat_eventsToWord, toNat_ctrlToWord, toNat_outInfoToWord, BitVec.toNat_setWidth_of_le]
  rfl

/-- Word register `n` stands at offset `4 * n` (R60). -/
theorem locate_wordReg {n : Nat} (hn : n < wordRegs.length) :
    locate (BitVec.ofNat 16 (4 * n)) .word = some (.reg wordRegs[n]) := by
  have hlow : n < 24 := hn
  rw [locate_word (by omega), wordLocation, if_pos (by omega), if_pos (by omega),
    show 4 * n / 4 = n by omega, List.getElem?_eq_getElem hn, Option.map_some]

/-! ### Reads of bytes and records (20_memory.md R63) -/

theorem readLoc_byte (s : State) (g : ByteRegion) (i : Nat) :
    s.readLoc (.byte g i) = if g = .key then 0 else (s.byte g i).setWidth 32 := by
  cases g <;> rfl

theorem readLoc_burstBitLength (s : State) (r : Nat) :
    s.readLoc (.burstBitLength r) = if (s.burst r).carrier = 0xFFFF#16 then 0 else 40 :=
  apply_ite (BitVec.ofNat 32) _ _ _

/-- A read of a byte address, by the location the address leads to. -/
theorem step_read_byte {a : Nat} {l : Location} (ha : a < 2 ^ 16) (h : byteLocation a = some l) (s : State) :
    step (s.before (.read (BitVec.ofNat 16 a) .byte)) = .next (s.answered (s.readLoc l)) :=
  step_read ((locate_byte ha).trans h) s

/-- A read of a word address, by the location the address leads to. -/
theorem step_read_word {a : Nat} {l : Location} (ha : a < 2 ^ 16) (h : wordLocation a = some l) (s : State) :
    step (s.before (.read (BitVec.ofNat 16 a) .word)) = .next (s.answered (s.readLoc l)) :=
  step_read ((locate_word ha).trans h) s

/-- Settles O11: each address leads to its location, whose value as read the clause states. -/
theorem readAnswersStoredValue : Obligations.ReadAnswersStoredValue := by
  intro s
  refine ⟨fun n hn => ?register, fun g i hi => ?region, fun r hr => ?record⟩
  case register =>
    have hlen : n < wordRegs.length := by simpa only [registerValues_eq_map, List.length_map] using hn
    exact ⟨s.readReg wordRegs[n], by simp only [registerValues_eq_map, List.getElem_map],
      step_read (locate_wordReg hlen) s⟩
  case region =>
    rw [← readLoc_byte]
    exact step_read (locate_region g hi) s
  case record =>
    obtain ⟨hcarrier, htrb, hcursor, hlength⟩ := wordLocation_burst hr
    rw [← readLoc_burstBitLength]
    exact ⟨fun k hk => step_read_byte (by omega) (byteLocation_burstBits hr hk) s,
      step_read_word (by omega) hcarrier s, step_read_word (by omega) htrb s,
      step_read_word (by omega) hcursor s, step_read_word (by omega) hlength s⟩

end Sys2Proof.Machine
end

section
/-! The command word (30_encoding.md R76 to R98): the decoder selects the rows of the opcode table, the encoder is its
inverse, and the assembler's numbers are the fields of its word. -/

namespace Sys2Proof.Machine

/-! ### Rows of the opcode table (R93) -/

/-- An OPCODE selects the one row that has it. -/
theorem ofOpcode_eq_some_iff {op : Byte} {m : Mnemonic} : Mnemonic.ofOpcode op = some m ↔ op = m.opcode := by
  constructor
  · intro h
    have hop := List.find?_some h
    exact (beq_iff_eq.1 hop).symm
  · rintro rfl
    cases m <;> rfl

/-- A row's mask asks for the OPCODE and the reserved bits of the row's format. -/
theorem tableMask_eq (m : Mnemonic) :
    tableMask m = 0xFF#8 ++ m.format.reservedMask.extractLsb' 0 24 := by
  cases m <;> decide

theorem tableMatch_eq (m : Mnemonic) : tableMatch m = m.opcode ++ 0#24 := by
  cases m <;> decide

/-- A command word is its OPCODE and its bits 23:0. -/
theorem opcodeField_append (w : Word) : opcodeField w ++ w.extractLsb' 0 24 = w :=
  (BitVec.extractLsb'_append_extractLsb'_eq_extractLsb' rfl).trans BitVec.extractLsb'_eq_self

/-- No OPCODE bit is reserved. -/
theorem reservedMask_eq (f : Format) : f.reservedMask = 0#8 ++ f.reservedMask.extractLsb' 0 24 := by
  cases f <;> decide

/-- Words are equal when their OPCODE fields and their bits 23:0 are. -/
theorem opcode_append_inj {a b : Byte} {x y : BitVec 24} : a ++ x = b ++ y ↔ a = b ∧ x = y := by
  refine ⟨fun h => ⟨?_, ?_⟩, fun ⟨ha, hx⟩ => by rw [ha, hx]⟩
  · simpa only [BitVec.extractLsb'_append_eq_left] using congrArg (BitVec.extractLsb' 24 8) h
  · simpa only [BitVec.extractLsb'_append_eq_right] using congrArg (BitVec.extractLsb' 0 24) h

/-- A word matches a row exactly when it has the row's OPCODE and its reserved bits are 0 (R93, R94). -/
theorem selects_iff (w : Word) (m : Mnemonic) : w &&& tableMask m = tableMatch m ↔
    opcodeField w = m.opcode ∧ w &&& m.format.reservedMask = 0#32 := by
  rw [← opcodeField_append w, tableMask_eq, tableMatch_eq, reservedMask_eq, BitVec.and_append, BitVec.and_append,
    show (0xFF#8) = BitVec.allOnes 8 from rfl, BitVec.and_allOnes, BitVec.and_zero,
    show (0#32) = 0#8 ++ 0#24 from rfl, opcode_append_inj, opcode_append_inj]
  simp only [opcodeField, BitVec.extractLsb'_append_eq_left, true_and, BitVec.extractLsb'_append_eq_right]

theorem mnemonic_fields (w : Word) (m : Mnemonic) : (m.fields w).mnemonic = m := by
  cases m <;> rfl

/-- A word decodes exactly to the fields of the row it matches (R93, R94). -/
theorem decode_eq_ok_iff {w : Word} {i : Instr} :
    decode w = .ok i ↔ w &&& tableMask i.mnemonic = tableMatch i.mnemonic ∧ i.mnemonic.fields w = i := by
  rw [selects_iff, ← ofOpcode_eq_some_iff]
  unfold decode
  constructor
  · intro h
    split at h
    next => exact absurd h (by simp)
    next m hm =>
      split at h
      next hreserved =>
        obtain rfl := Except.ok.inj h
        rw [mnemonic_fields]
        exact ⟨⟨hm, hreserved⟩, rfl⟩
      next => exact absurd h (by simp)
  · rintro ⟨⟨hm, hreserved⟩, hi⟩
    simp only [hm, hreserved, if_true, hi]

/-- Settles O2: a word that matches a row decodes to the row's fields. -/
theorem tableRowSelectsCommand : Obligations.TableRowSelectsCommand := by
  intro w m
  constructor
  · rintro ⟨i, hdecode, rfl⟩
    exact (decode_eq_ok_iff.1 hdecode).1
  · intro hrow
    have hm := mnemonic_fields w m
    exact ⟨m.fields w, decode_eq_ok_iff.2 (by rw [hm]; exact ⟨hrow, rfl⟩), hm⟩

/-! ### Encoding (R76) -/

/-- Every instruction's word matches its row (R76, R93). -/
theorem encode_selects (i : Instr) : encode i &&& tableMask i.mnemonic = tableMatch i.mnemonic := by
  cases i with
  | nop => exact Laws.EncodedWordSelectsRow.nop
  | epcLoad => exact Laws.EncodedWordSelectsRow.epcLoad
  | epcCommit => exact Laws.EncodedWordSelectsRow.epcCommit
  | aesBlock => exact Laws.EncodedWordSelectsRow.aesBlock
  | cmacSubkeys => exact Laws.EncodedWordSelectsRow.cmacSubkeys
  | cmac start len ivp => exact Laws.EncodedWordSelectsRow.cmac start len ivp
  | burstClear n => exact Laws.EncodedWordSelectsRow.burstClear n
  | writeSubPacketBit r bit => exact Laws.EncodedWordSelectsRow.writeSubPacketBit r bit
  | writeBitIdx r idx bit => exact Laws.EncodedWordSelectsRow.writeBitIdx r idx bit
  | addMidamble r => exact Laws.EncodedWordSelectsRow.addMidamble r
  | diffMsk r => exact Laws.EncodedWordSelectsRow.diffMsk r
  | puncture r => exact Laws.EncodedWordSelectsRow.puncture r
  | ctrCrypt start len => exact Laws.EncodedWordSelectsRow.ctrCrypt start len
  | macEncode len mpf mpfv => exact Laws.EncodedWordSelectsRow.macEncode len mpf mpfv
  | numBursts n => exact Laws.EncodedWordSelectsRow.numBursts n
  | phyAssemble mlen mmode => exact Laws.EncodedWordSelectsRow.phyAssemble mlen mmode
  | crc8 bstart blen => exact Laws.EncodedWordSelectsRow.crc8 bstart blen
  | whiten n => exact Laws.EncodedWordSelectsRow.whiten n
  | convInterleave n => exact Laws.EncodedWordSelectsRow.convInterleave n
  | tsmaAssign nb pat => exact Laws.EncodedWordSelectsRow.tsmaAssign nb pat
  | lfsrStep => exact Laws.EncodedWordSelectsRow.lfsrStep
  | calcF0 => exact Laws.EncodedWordSelectsRow.calcF0
  | crc2 bstart blen => exact Laws.EncodedWordSelectsRow.crc2 bstart blen
  | syncEncode pat => exact Laws.EncodedWordSelectsRow.syncEncode pat
  | tsmaPattern counter => exact Laws.EncodedWordSelectsRow.tsmaPattern counter
  | phyEncode mlen pat mmode => exact Laws.EncodedWordSelectsRow.phyEncode mlen pat mmode
  | send len prio mpfv => exact Laws.EncodedWordSelectsRow.send len prio mpfv

/-- Each operand is read from the bits it was put in: the fields of a format do not overlap (R78 to R92). -/
theorem fields_encode (i : Instr) : i.mnemonic.fields (encode i) = i := by
  cases i <;> simp (disch := decide) only [Instr.mnemonic, Mnemonic.fields, encode, Instr.operandBits,
    BitVec.extractLsb'_append_eq_of_le, BitVec.extractLsb'_append_eq_of_add_le, Nat.reduceSub, Nat.sub_self,
    BitVec.extractLsb'_eq_self]

/-- Adjacent bits of a word put together again. -/
theorem append_bits {w : Word} {lo k n : Nat} {x : BitVec k} {y : BitVec n} (hx : x = w.extractLsb' (lo + n) k)
    (hy : y = w.extractLsb' lo n) : x ++ y = w.extractLsb' lo (k + n) := by
  rw [hx, hy, BitVec.extractLsb'_append_extractLsb'_eq_extractLsb' rfl]

/-- Bits that a format reserves are 0 in a word of that format. -/
theorem extractLsb'_reserved {w : Word} {f : Format} (h : w &&& f.reservedMask = 0#32) {lo n : Nat}
    (hmask : f.reservedMask.extractLsb' lo n = BitVec.allOnes n) : w.extractLsb' lo n = 0#n := by
  have hbits := congrArg (BitVec.extractLsb' lo n) h
  rwa [BitVec.extractLsb'_and, hmask, BitVec.and_allOnes, BitVec.extractLsb'_zero] at hbits

/-- The fields of a format and its reserved bits together are the bits 23:0 (R78 to R92). -/
theorem operandBits_fields {w : Word} {m : Mnemonic} (h : w &&& m.format.reservedMask = 0#32) :
    (m.fields w).operandBits = w.extractLsb' 0 24 := by
  have reserved {lo n : Nat} (hmask : m.format.reservedMask.extractLsb' lo n = BitVec.allOnes n := by decide) :
      0#n = w.extractLsb' lo n := (extractLsb'_reserved h hmask).symm
  cases m
  case nop | epcLoad | epcCommit | aesBlock | cmacSubkeys | lfsrStep | calcF0 => exact reserved
  case burstClear | addMidamble | diffMsk | puncture | numBursts | whiten | convInterleave =>
    exact append_bits reserved rfl
  case writeSubPacketBit | ctrCrypt | tsmaAssign => exact append_bits (append_bits reserved rfl) rfl
  case writeBitIdx | cmac | macEncode | phyEncode | send =>
    exact append_bits (append_bits (append_bits reserved rfl) rfl) rfl
  case phyAssemble => exact append_bits (append_bits (append_bits reserved rfl) reserved) rfl
  case crc8 | crc2 => exact append_bits rfl rfl
  case syncEncode => exact append_bits reserved rfl
  case tsmaPattern => rfl

theorem decode_encode (i : Instr) : decode (encode i) = .ok i :=
  decode_eq_ok_iff.2 ⟨encode_selects i, fields_encode i⟩

/-- Settles O1: the fields are read from where they were put, and with the OPCODE they are all of a legal word. -/
theorem decodeAndEncodeAgree : Obligations.DecodeAndEncodeAgree := by
  refine ⟨decode_encode, fun w i hdecode => ?_⟩
  obtain ⟨hrow, hfields⟩ := decode_eq_ok_iff.1 hdecode
  obtain ⟨hopcode, hreserved⟩ := (selects_iff w i.mnemonic).1 hrow
  have hbits := operandBits_fields hreserved
  rw [hfields] at hbits
  rw [encode, ← hopcode, hbits, opcodeField_append]

/-! ### The assembler (R98) -/

/-- The operands of an instruction, as numbers, are the fields of its word. -/
theorem operandValues_fields (w : Word) (m : Mnemonic) :
    operandValues (m.fields w) = (operandFields m).map fun p => w.toNat / 2 ^ p.1 % 2 ^ p.2 := by
  cases m <;> simp only [Mnemonic.fields, operandValues, operandFields, List.map_cons, List.map_nil,
    BitVec.extractLsb'_toNat, Nat.shiftRight_eq_div_pow]

/-- Each operand of an instruction stands as a number in its bits of the instruction's word. -/
theorem operand_in_encode {i : Instr} {p : (Nat × Nat) × Nat}
    (hp : p ∈ (operandFields i.mnemonic).zip (operandValues i)) : (encode i).toNat / 2 ^ p.1.1 % 2 ^ p.1.2 = p.2 := by
  have hvalues := operandValues_fields (encode i) i.mnemonic
  rw [fields_encode] at hvalues
  rw [hvalues, List.zip, List.zipWith_map_right, List.zipWith_self] at hp
  obtain ⟨_, _, rfl⟩ := List.mem_map.1 hp
  rfl

theorem operandWidths_format (m : Mnemonic) : m.format.operandWidths = (operandFields m).map Prod.snd := by
  cases m <;> rfl

/-- The assembler's own check is that the operands are all there and fit (R98). -/
theorem wellFormed_iff (c : AsmCommand) : c.wellFormed = true ↔ OperandsFit c := by
  simp only [AsmCommand.wellFormed, operandWidths_format, List.length_map, Bool.and_eq_true, decide_eq_true_eq,
    List.zip_map_left, List.all_map, List.all_eq_true, fitsField, OperandsFit, Function.comp, Prod.map, id_eq]

theorem toNat_ofNat_fit {n v : Nat} (h : v < 2 ^ n) : (BitVec.ofNat n v).toNat = v :=
  (BitVec.toNat_ofNat v n).trans (Nat.mod_eq_of_lt h)

/-- A command whose operands fit is an instruction with those operands. -/
theorem toInstr_of_fit {c : AsmCommand} (h : OperandsFit c) :
    ∃ i, c.toInstr = some i ∧ i.mnemonic = c.mnemonic ∧ operandValues i = c.operands := by
  rw [AsmCommand.toInstr, if_pos ((wellFormed_iff c).2 h)]
  obtain ⟨hlength, hfit⟩ := h
  obtain ⟨m, operands⟩ := c
  cases m
  case nop | epcLoad | epcCommit | aesBlock | cmacSubkeys | lfsrStep | calcF0 =>
    obtain rfl := List.length_eq_zero_iff.1 hlength
    exact ⟨_, rfl, rfl, rfl⟩
  case burstClear | addMidamble | diffMsk | puncture | numBursts | whiten | convInterleave | syncEncode | tsmaPattern =>
    obtain ⟨a, rfl⟩ := List.length_eq_one_iff.1 hlength
    have ha := hfit _ (.head _)
    refine ⟨_, rfl, rfl, ?_⟩
    simp only [operandValues, toNat_ofNat_fit ha]
  case writeSubPacketBit | ctrCrypt | tsmaAssign | phyAssemble | crc8 | crc2 =>
    obtain ⟨a, b, rfl⟩ := List.length_eq_two.1 hlength
    have ha := hfit _ (.head _)
    have hb := hfit _ (.tail _ (.head _))
    refine ⟨_, rfl, rfl, ?_⟩
    simp only [operandValues, toNat_ofNat_fit ha, toNat_ofNat_fit hb]
  case writeBitIdx | cmac | macEncode | phyEncode | send =>
    obtain ⟨a, b, d, rfl⟩ := List.length_eq_three.1 hlength
    have ha := hfit _ (.head _)
    have hb := hfit _ (.tail _ (.head _))
    have hd := hfit _ (.tail _ (.tail _ (.head _)))
    refine ⟨_, rfl, rfl, ?_⟩
    simp only [operandValues, toNat_ofNat_fit ha, toNat_ofNat_fit hb, toNat_ofNat_fit hd]

/-- Settles O4: a fitting command is an instruction, whose word has the row's bits and the operands' fields. -/
theorem assemblerAcceptsExactlyFittingOperands : Obligations.AssemblerAcceptsExactlyFittingOperands := by
  intro c
  constructor
  · intro hfit
    obtain ⟨i, hinstr, hm, hvalues⟩ := toInstr_of_fit hfit
    rw [← hm, ← hvalues]
    exact ⟨encode i, i, by rw [AsmCommand.assemble, hinstr, Option.map_some], encode_selects i,
      fun p hp => operand_in_encode hp, decode_encode i, rfl, rfl⟩
  · intro hunfit
    have hrefused : ¬c.wellFormed = true := mt (wellFormed_iff c).1 hunfit
    rw [AsmCommand.assemble, AsmCommand.toInstr, if_neg hrefused, Option.map_none]

/-! ### A command word written to CMD (R96) -/

/-- The host's write to CMD is acknowledged and issues the word. -/
theorem step_commandWrite (s : State) (w : Word) :
    step (s.before (.write 0x000#16 .word w)) = issueCommand w (s.answered 0) := by
  have hloc : locate 0x000#16 .word = some (.reg .cmd) := by decide
  rw [step_before]
  simp only [serve, serveWrite, hloc]
  rfl

/-- Settles O6: a word that decoded would match the row of its instruction. -/
theorem stepReportsIllegalWord : Obligations.StepReportsIllegalWord := by
  intro s w hnone
  rw [step_commandWrite]
  rcases issueCommand_cases w (s.answered 0) with ⟨i, hdecode, _⟩ | ⟨_, _, hissue⟩
  · exact absurd (decode_eq_ok_iff.1 hdecode).1 (hnone i.mnemonic)
  · exact hissue

/-- Settles O5: the write to CMD issues the word, which decodes. -/
theorem stepRunsDecodedCommand : Obligations.StepRunsDecodedCommand := by
  intro s w i hdecode
  rw [step_commandWrite]
  simp only [issueCommand, hdecode]

/-- Settles O3: the decoder is run on each word. -/
theorem sampleWordsDecode : Obligations.SampleWordsDecode := by
  unfold Obligations.SampleWordsDecode
  decide

end Sys2Proof.Machine
end

section
/-! Every command as its check and its body: the check finds the error of the tables of 60_exceptions.md, and the body
keeps what no command may change (30_encoding.md R97). -/

namespace Sys2Proof.Machine

/-! ### The check and the body of a command -/

/-- The check of each command, in the order of its pseudocode (60_exceptions.md R173). -/
def commandCheck : Instr → State → CheckResult
  | .nop, _ => none
  | .epcLoad, _ => none
  | .epcCommit, _ => none
  | .aesBlock, _ => none
  | .cmacSubkeys, _ => none
  | .cmac start len ivp, s => cmacCheck start.toNat len.toNat (ivp == 1#1) s
  | .burstClear n, _ => firstError [(decide (n.toNat > burstRecords), .operandRange)]
  | .writeSubPacketBit r _, s => writeSubPacketBitCheck r.toNat s
  | .writeBitIdx r idx _, _ => firstError [(badRecord r.toNat || decide (idx.toNat > 39), .operandRange)]
  | .addMidamble r, _ => firstError [(badRecord r.toNat, .operandRange)]
  | .diffMsk r, _ => firstError [(badRecord r.toNat, .operandRange)]
  | .puncture r, _ => firstError [(badRecord r.toNat, .operandRange)]
  | .ctrCrypt start len, s => ctrCryptCheck start.toNat len.toNat s
  | .macEncode len mpf mpfv, s => macEncodeCheck len.toNat (mpf == 1#1) mpfv s
  | .numBursts n, _ => firstError [(tooLong n.toNat, .payloadTooLong)]
  | .phyAssemble mlen _, _ => firstError [(tooLong mlen.toNat, .payloadTooLong)]
  | .crc8 bstart blen, _ => firstError [(badPhyBits bstart.toNat blen.toNat, .operandRange)]
  | .whiten n, _ => firstError [(decide (n.toNat < 1) || decide (n.toNat > maxDataBursts), .operandRange)]
  | .convInterleave n, s => convInterleaveCheck n.toNat s
  | .tsmaAssign nb _, s => tsmaAssignCheck nb.toNat s
  | .lfsrStep, _ => none
  | .calcF0, s => firstError [(regionBad s, .configError)]
  | .crc2 bstart blen, _ => firstError [(badPhyBits bstart.toNat blen.toNat, .operandRange)]
  | .syncEncode _, s => syncEncodeCheck s
  | .tsmaPattern _, _ => none
  | .phyEncode mlen _ _, s => phyEncodeCheck mlen.toNat s
  | .send len _ mpfv, s => sendCheck len.toNat mpfv s

/-- The body of each command: its RESULT and the state it leaves once its check has passed. -/
def commandBody : Instr → State → Word × State
  | .nop, s => (0, s)
  | .epcLoad, s => epcLoadBody s
  | .epcCommit, s => epcCommitBody s
  | .aesBlock, s => aesBlockBody s
  | .cmacSubkeys, s => cmacSubkeysBody s
  | .cmac start len ivp, s => cmacBody start.toNat len.toNat (ivp == 1#1) s
  | .burstClear n, s => burstClearBody n.toNat s
  | .writeSubPacketBit r bit, s => writeSubPacketBitBody r.toNat (bit == 1#1) s
  | .writeBitIdx r idx bit, s => writeBitIdxBody r.toNat idx.toNat (bit == 1#1) s
  | .addMidamble r, s => addMidambleBody r.toNat s
  | .diffMsk r, s => diffMskBody r.toNat s
  | .puncture r, s => punctureBody r.toNat s
  | .ctrCrypt start len, s => ctrCryptBody start.toNat len.toNat s
  | .macEncode len mpf mpfv, s => macEncodeBody len.toNat (mpf == 1#1) mpfv s
  | .numBursts n, s => (BitVec.ofNat 32 (numBurstsOf n.toNat), s)
  | .phyAssemble mlen mmode, s => phyAssembleBody mlen.toNat mmode s
  | .crc8 bstart blen, s => ((crc8Of (s.byte .phybuf) bstart.toNat blen.toNat).setWidth 32, s)
  | .whiten n, s => whitenBody n.toNat s
  | .convInterleave n, s => convInterleaveBody n.toNat s
  | .tsmaAssign nb pat, s => tsmaAssignBody nb.toNat pat s
  | .lfsrStep, s => ((lfsrNext s.tsmaLfsr).setWidth 32, { s with tsmaLfsr := lfsrNext s.tsmaLfsr })
  | .calcF0, s => (f0Value s, { s with f0 := f0Value s })
  | .crc2 bstart blen, s => ((crc2Of (bitRead (s.byte .phybuf)) bstart.toNat blen.toNat).setWidth 32, s)
  | .syncEncode pat, s => syncEncodeBody pat s
  | .tsmaPattern counter, s => (BitVec.ofNat 32 (patternOf counter.toNat), s)
  | .phyEncode mlen pat mmode, s => phyEncodeBody mlen.toNat pat mmode s
  | .send len prio mpfv, s => sendBody len.toNat (prio == 1#1) mpfv s

/-- Every instruction is the command step of its check and its body (30_encoding.md R96). -/
theorem exec_eq_run (i : Instr) (s : State) : exec i s =
    if clearsF0 i then runCommandF0 i.mnemonic (commandCheck i) (commandBody i) s
    else runCommand i.mnemonic (commandCheck i) (commandBody i) s := by
  cases i <;> rfl

/-- A command whose check passes completes with its body. -/
theorem exec_of_check_none {i : Instr} {s : State} (h : commandCheck i (s.setLastOp i.mnemonic.opcode) = none) :
    exec i s = .next ((commandBody i (s.setLastOp i.mnemonic.opcode)).2.complete
      (commandBody i (s.setLastOp i.mnemonic.opcode)).1) := by
  rw [exec_eq_run]
  split
  · exact runCommandF0_ok h
  · exact runCommand_ok h

/-! ### The error tables (60_exceptions.md R169 to R173) -/

/-- Two checks in a row of one error are one check. -/
theorem firstError_cons_same (a b : Bool) (c : ErrorCode) (l : List (Bool × ErrorCode)) :
    firstError ((a, c) :: (b, c) :: l) = firstError ((a || b, c) :: l) := by
  cases a <;> rfl

theorem locksMissing_eq (s : State) : locksMissing s = decide (¬Provisioned s) :=
  Bool.eq_iff_iff.2 ((locksMissing_iff s).trans decide_eq_true_iff.symm)

theorem regionBad_eq (s : State) : regionBad s = decide (¬RegionOk s) :=
  Bool.eq_iff_iff.2 ((regionBad_iff s).trans decide_eq_true_iff.symm)

theorem cursorBusy_iff (n : Nat) (s : State) : cursorBusy n s = true ↔ ∃ r < n, (s.burst r).cursor ≠ 0#5 := by
  simp [cursorBusy]

/-- The check of each command is the three tables, in the order of R173. -/
theorem commandCheck_eq_tables (i : Instr) (s : State) : commandCheck i s =
    firstError [(rangeError s i, .operandRange), (configError s i, .configError),
      (lengthError s i, .payloadTooLong)] := by
  cases i
  case nop | epcLoad | epcCommit | aesBlock | cmacSubkeys | lfsrStep | tsmaPattern => rfl
  case burstClear | writeBitIdx | addMidamble | diffMsk | puncture | crc8 | crc2 | numBursts | phyAssemble => rfl
  case cmac start len ivp =>
    have hconfig : (ivp == 1#1 && locksMissing s) = configError s (.cmac start len ivp) := by
      rw [locksMissing_eq, configError, Bool.decide_and, beq_eq_decide]
    rw [← hconfig]
    rfl
  case writeSubPacketBit r bit => exact firstError_cons_same _ _ _ _
  case ctrCrypt start len =>
    rw [commandCheck, ctrCryptCheck, locksMissing_eq]
    rfl
  case macEncode len mpf mpfv =>
    have hrange : (!(mpf == 1#1) && mpfv != 0#8) = rangeError s (.macEncode len mpf mpfv) := by
      rcases BitVec.eq_zero_or_eq_one mpf with rfl | rfl <;> simp [rangeError, bne, beq_eq_decide]
    rw [commandCheck, macEncodeCheck, hrange, locksMissing_eq]
    rfl
  case whiten n =>
    have hrange : (decide (n.toNat < 1) || decide (n.toNat > maxDataBursts)) = rangeError s (.whiten n) := by
      have hzero : n.toNat < 1 ↔ n = 0#9 := by bv_omega
      simp only [hzero, rangeError, maxDataBursts, gt_iff_lt]
    rw [← hrange]
    rfl
  case convInterleave n =>
    have hrange : (badBurstCount n.toNat || cursorBusy n.toNat s) = rangeError s (.convInterleave n) :=
      congrArg (badBurstCount n.toNat || ·) (Bool.eq_iff_iff.2 ((cursorBusy_iff _ _).trans decide_eq_true_iff.symm))
    rw [← hrange]
    exact firstError_cons_same _ _ _ _
  case tsmaAssign nb pat =>
    rw [commandCheck, tsmaAssignCheck, regionBad_eq]
    rfl
  case calcF0 =>
    rw [commandCheck, regionBad_eq]
    rfl
  case syncEncode pat =>
    have hlock : (!s.ctrl.euiLock) = decide (s.ctrl.euiLock = false) := by
      cases s.ctrl.euiLock <;> rfl
    rw [commandCheck, syncEncodeCheck, regionBad_eq, firstError_cons_same, hlock]
    rfl
  case phyEncode mlen pat mmode =>
    rw [commandCheck, phyEncodeCheck, regionBad_eq]
    rfl
  case send len prio mpfv =>
    rw [commandCheck, sendCheck, regionBad_eq, locksMissing_eq, firstError_cons_same]
    rfl

/-- A command's check reports the error of the tables. -/
theorem code_commandCheck (i : Instr) (s : State) : (commandCheck i s).map ErrorCode.code = commandError i s := by
  rw [commandCheck_eq_tables, commandError]
  cases rangeError s i
  · cases configError s i
    · cases lengthError s i <;> rfl
    · rfl
  · rfl

/-- A command without an error of the tables passes its check. LAST_OP is no operand of a check. -/
theorem commandCheck_eq_none {i : Instr} {s : State} (h : commandError i s = none) (op : Byte) :
    commandCheck i (s.setLastOp op) = none := by
  have hsame : commandError i (s.setLastOp op) = commandError i s := by cases i <;> rfl
  rw [← hsame, ← code_commandCheck] at h
  exact Option.map_eq_none_iff.1 h

/-! ### What a body keeps (30_encoding.md R97; 10_state.md R27, R57) -/

/-- What the body of any command keeps: STATUS, ERR, the configuration, the host's accesses and their response; and it
clears neither of the other event bits. -/
structure ConfigKept (s t : State) : Prop where
  status : t.status = s.status := by rfl
  err : t.events.err = s.events.err := by rfl
  persistReq : s.events.persistReq = true → t.events.persistReq = true := by exact id
  outValid : s.events.outValid = true → t.events.outValid = true := by exact id
  ctrl : t.ctrl = s.ctrl := by rfl
  shortAddrOvr : t.shortAddrOvr = s.shortAddrOvr := by rfl
  chanA : t.chanA = s.chanA := by rfl
  chanB : t.chanB = s.chanB := by rfl
  bC : t.bC = s.bC := by rfl
  bC0 : t.bC0 = s.bC0 := by rfl
  upg : t.upg = s.upg := by rfl
  nCo : t.nCo = s.nCo := by rfl
  epcLoadval : t.epcLoadval = s.epcLoadval := by rfl
  hostQueue : t.hostQueue = s.hostQueue := by rfl
  busResponse : t.busResponse = s.busResponse := by rfl

theorem ConfigKept.trans {s t u : State} (h : ConfigKept s t) (h' : ConfigKept t u) : ConfigKept s u where
  status := h'.status.trans h.status
  err := h'.err.trans h.err
  persistReq := h'.persistReq ∘ h.persistReq
  outValid := h'.outValid ∘ h.outValid
  ctrl := h'.ctrl.trans h.ctrl
  shortAddrOvr := h'.shortAddrOvr.trans h.shortAddrOvr
  chanA := h'.chanA.trans h.chanA
  chanB := h'.chanB.trans h.chanB
  bC := h'.bC.trans h.bC
  bC0 := h'.bC0.trans h.bC0
  upg := h'.upg.trans h.upg
  nCo := h'.nCo.trans h.nCo
  epcLoadval := h'.epcLoadval.trans h.epcLoadval
  hostQueue := h'.hostQueue.trans h.hostQueue
  busResponse := h'.busResponse.trans h.busResponse

theorem writeSubkeys_configKept (s : State) : ConfigKept s (writeSubkeys s) := by
  rw [writeSubkeys_frame]
  exact {}

theorem cmacBody_configKept (start len : Nat) (ivp : Bool) (s : State) :
    ConfigKept s (cmacBody start len ivp s).2 := by
  rw [cmacBody_frame]
  exact {}

theorem epcIncrement_configKept (s : State) : ConfigKept s (epcIncrement s) where
  err := by
    rw [epcIncrement_events]
    split <;> rfl
  persistReq h := by
    rw [epcIncrement_events]
    split
    · rfl
    · exact h
  outValid h := by
    rw [epcIncrement_events]
    split <;> exact h

theorem macEncodeBody_configKept (len : Nat) (mpf : Bool) (mpfv : Byte) (s : State) :
    ConfigKept s (macEncodeBody len mpf mpfv s).2 := by
  rw [macEncodeBody_frame]
  exact (epcIncrement_configKept s).trans {}

theorem phyAssembleBody_configKept (m : Nat) (mmode : BitVec 2) (s : State) :
    ConfigKept s (phyAssembleBody m mmode s).2 := by
  rw [phyAssembleBody_frame]
  exact {}

theorem whitenBody_configKept (n : Nat) (s : State) : ConfigKept s (whitenBody n s).2 := by
  rw [whitenBody_frame]
  exact {}

theorem burstClearBody_configKept (n : Nat) (s : State) : ConfigKept s (burstClearBody n s).2 := {}

theorem convInterleaveBody_configKept (n : Nat) (s : State) : ConfigKept s (convInterleaveBody n s).2 := {}

theorem finishBursts_configKept {nb : Nat} (hnb : nb ≤ 260) (s : State) : ConfigKept s (finishBursts nb s) := by
  rw [finishBursts_frame nb hnb]
  exact {}

theorem tsmaAssignBody_configKept (nb : Nat) (pat : BitVec 3) (s : State) :
    ConfigKept s (tsmaAssignBody nb pat s).2 := by
  rw [tsmaAssignBody_frame]
  exact {}

theorem syncEncodeBody_configKept (pat : BitVec 3) (s : State) : ConfigKept s (syncEncodeBody pat s).2 := by
  rw [syncEncodeBody_frame]
  exact {}

/-- No MPDU length has more bursts than there are records (44_phy_coding.md R136). -/
theorem numBurstsOf_le (m : Nat) : numBurstsOf m ≤ 260 := by
  unfold numBurstsOf
  split <;> [omega; split <;> omega]

theorem phyEncodeBursts_configKept (mlen : Nat) (pat : BitVec 3) (mmode : BitVec 2) (s : State) :
    ConfigKept s (phyEncodeBursts mlen pat mmode s) :=
  (phyAssembleBody_configKept _ _ _).trans <| (whitenBody_configKept _ _).trans <|
    (burstClearBody_configKept _ _).trans <| (convInterleaveBody_configKept _ _).trans <|
    (finishBursts_configKept (numBurstsOf_le mlen) _).trans (tsmaAssignBody_configKept _ _ _)

theorem phyEncodeBody_configKept (mlen : Nat) (pat : BitVec 3) (mmode : BitVec 2) (s : State) :
    ConfigKept s (phyEncodeBody mlen pat mmode s).2 :=
  (phyEncodeBursts_configKept mlen pat mmode s).trans { outValid := fun _ => rfl }

theorem sendBody_configKept (len : Nat) (prio : Bool) (mpfv : Byte) (s : State) :
    ConfigKept s (sendBody len prio mpfv s).2 := by
  have hencoded := (macEncodeBody_configKept len (sendMpf mpfv) mpfv s).trans
    (phyEncodeBody_configKept (mpduLength s len (sendMpf mpfv)) (sendPattern prio s.epc) 0#2 _)
  simp only [sendBody]
  split
  · exact (hencoded.trans (syncEncodeBody_configKept (sendPattern prio s.epc) _)).trans { outValid := fun _ => rfl }
  · exact hencoded.trans { outValid := fun _ => rfl }

theorem commandBody_configKept (i : Instr) (s : State) : ConfigKept s (commandBody i s).2 := by
  cases i
  case cmacSubkeys => exact writeSubkeys_configKept s
  case cmac => exact cmacBody_configKept _ _ _ s
  case epcCommit => exact { persistReq := fun _ => rfl }
  case macEncode => exact macEncodeBody_configKept _ _ _ s
  case phyAssemble => exact phyAssembleBody_configKept _ _ s
  case whiten => exact whitenBody_configKept _ s
  case tsmaAssign => exact tsmaAssignBody_configKept _ _ s
  case syncEncode => exact syncEncodeBody_configKept _ s
  case phyEncode => exact phyEncodeBody_configKept _ _ _ s
  case send => exact sendBody_configKept _ _ _ s
  case nop | epcLoad | aesBlock | burstClear | writeSubPacketBit | writeBitIdx | addMidamble | diffMsk | puncture |
      ctrCrypt | numBursts | crc8 | convInterleave | lfsrStep | calcF0 | crc2 | tsmaPattern =>
    exact {}

/-- A row's match holds the OPCODE in bits 31:24 (30_encoding.md R93). -/
theorem opcode_of_tableMatch (m : Mnemonic) : (tableMatch m).extractLsb' 24 8 = m.opcode := by
  rw [tableMatch_eq, BitVec.extractLsb'_append_eq_left]

/-- Settles O18: the check passes, and the body keeps what the statement names until LAST_ERR and RESULT are written. -/
theorem commandsWithoutErrorComplete : Obligations.CommandsWithoutErrorComplete := by
  intro i s hnone
  have kept := commandBody_configKept i (s.setLastOp i.mnemonic.opcode)
  refine ⟨_, exec_of_check_none (commandCheck_eq_none hnone _), ?_, kept.err, kept.persistReq, kept.outValid,
    kept.ctrl, kept.shortAddrOvr, kept.chanA, kept.chanB, kept.bC, kept.bC0, kept.upg, kept.nCo, kept.epcLoadval,
    kept.hostQueue, kept.busResponse⟩
  rw [complete_status, kept.status, opcode_of_tableMatch]
  rfl

end Sys2Proof.Machine
end

section
/-! The packet counter (40_control.md R100 to R105): what each control command leaves, what any command does to the EPC
and EPC_STORE, and the window of the last store. -/

namespace Sys2Proof.Machine

/-! ### The control commands (R100, R101, R104) -/

/-- Settles O23: NOP has no check, and its body gives 0 and the state itself. -/
theorem nopResult : Obligations.NopResult := fun _ => rfl

/-- R101's value as a number: 256 past a 24-bit value stays far below 2^32. -/
theorem toNat_loadedEpc (v : BitVec 24) :
    (loadedEpc v).toNat = if v = 0xFFFFFF#24 then 0 else v.toNat + 256 := by
  unfold loadedEpc
  split
  · rfl
  · bv_omega

theorem exec_epcLoad (s : State) : exec .epcLoad s = .next { s with
    status := { lastErr := 0x00#8, lastOp := 0x01#8 }, epc := loadedEpc s.epcLoadval,
    result := loadedEpc s.epcLoadval } := rfl

/-- Settles O24: EPC_LOAD has no check, and sets the EPC and RESULT to the loaded value. -/
theorem epcLoadResult : Obligations.EpcLoadResult :=
  fun s => ⟨loadedEpc s.epcLoadval, toNat_loadedEpc _, exec_epcLoad s⟩

/-- Settles O25: EPC_COMMIT has no check, and stores the EPC's low 24 bits. -/
theorem epcCommitResult : Obligations.EpcCommitResult :=
  fun s => ⟨s.epc.setWidth 24, BitVec.toNat_setWidth 24 s.epc, rfl⟩

/-! ### EpcIncrement (R102) -/

/-- R102's condition as a number: the low byte is 0. -/
theorem setWidth_beq_zero (e : BitVec 32) : (e.setWidth 8 == 0#8) = decide (e.toNat % 256 = 0) := by
  rw [beq_eq_decide, decide_eq_decide, ← BitVec.toNat_inj, BitVec.toNat_setWidth]
  rfl

/-- EpcIncrement when the low byte of the EPC becomes 0. -/
theorem epcIncrement_of_rollover {s : State} (h : (s.epc + 1).toNat % 256 = 0) : epcIncrement s =
    { s with epc := s.epc + 1, epcStore := (s.epc + 1).setWidth 24, events := s.events.setPersistReq } := by
  simp only [epcIncrement, setWidth_beq_zero, h, decide_true, if_true]

/-- EpcIncrement when it does not. -/
theorem epcIncrement_of_no_rollover {s : State} (h : (s.epc + 1).toNat % 256 ≠ 0) :
    epcIncrement s = { s with epc := s.epc + 1 } := by
  simp only [epcIncrement, setWidth_beq_zero, h, decide_false, Bool.false_eq_true, if_false]

/-- Settles O26, by the two cases of the low byte. -/
theorem epcIncrementResult : Obligations.EpcIncrementResult := by
  intro s
  refine ⟨s.epc + 1, BitVec.toNat_add _ _, fun h => ?_, epcIncrement_of_no_rollover⟩
  rw [epcIncrement_of_rollover h, BitVec.setWidth_eq_extractLsb' (by decide)]
  rfl

/-! ### What a body does to the counter -/

/-- The packet counter and its stored value: the EPC and EPC_STORE. -/
def State.counter (s : State) : BitVec 32 × BitVec 24 := (s.epc, s.epcStore)

theorem cmacBody_counter (start len : Nat) (ivp : Bool) (s : State) :
    (cmacBody start len ivp s).2.counter = s.counter := by
  rw [cmacBody_frame]
  rfl

theorem macEncodeBody_counter (len : Nat) (mpf : Bool) (mpfv : Byte) (s : State) :
    (macEncodeBody len mpf mpfv s).2.counter = (epcIncrement s).counter := by
  rw [macEncodeBody_frame]
  rfl

theorem phyAssembleBody_counter (m : Nat) (mmode : BitVec 2) (s : State) :
    (phyAssembleBody m mmode s).2.counter = s.counter := by
  rw [phyAssembleBody_frame]
  rfl

theorem whitenBody_counter (n : Nat) (s : State) : (whitenBody n s).2.counter = s.counter := by
  rw [whitenBody_frame]
  rfl

theorem burstClearBody_counter (n : Nat) (s : State) : (burstClearBody n s).2.counter = s.counter := rfl

theorem convInterleaveBody_counter (n : Nat) (s : State) : (convInterleaveBody n s).2.counter = s.counter := rfl

theorem finishBursts_counter (m : Nat) (s : State) : (finishBursts (numBurstsOf m) s).counter = s.counter := by
  rw [finishBursts_frame _ (numBurstsOf_le m)]
  rfl

theorem tsmaAssignBody_counter (nb : Nat) (pat : BitVec 3) (s : State) :
    (tsmaAssignBody nb pat s).2.counter = s.counter := by
  rw [tsmaAssignBody_frame]
  rfl

theorem syncEncodeBody_counter (pat : BitVec 3) (s : State) : (syncEncodeBody pat s).2.counter = s.counter := by
  rw [syncEncodeBody_frame]
  rfl

theorem phyEncodeBody_counter (mlen : Nat) (pat : BitVec 3) (mmode : BitVec 2) (s : State) :
    (phyEncodeBody mlen pat mmode s).2.counter = s.counter := by
  show (phyEncodeBursts mlen pat mmode s).counter = s.counter
  simp only [phyEncodeBursts, tsmaAssignBody_counter, finishBursts_counter, convInterleaveBody_counter,
    burstClearBody_counter, whitenBody_counter, phyAssembleBody_counter]

/-- SEND increments the counter in its MAC_ENCODE step, and the rest of it keeps the counter (46_pipeline.md R162). -/
theorem sendBody_counter (len : Nat) (prio : Bool) (mpfv : Byte) (s : State) :
    (sendBody len prio mpfv s).2.counter = (epcIncrement s).counter := by
  have hencoded := (phyEncodeBody_counter (mpduLength s len (sendMpf mpfv)) (sendPattern prio s.epc) 0#2
    (macEncodeBody len (sendMpf mpfv) mpfv s).2).trans (macEncodeBody_counter len (sendMpf mpfv) mpfv s)
  simp only [sendBody]
  split
  · exact (syncEncodeBody_counter (sendPattern prio s.epc) _).trans hencoded
  · exact hencoded

/-- The state with the counter as a successful command of the row leaves it, by the pseudocode of R101, R102 and R104
(40_control.md R103). -/
def counterStep : Mnemonic → State → State
  | .epcLoad, s => (epcLoadBody s).2
  | .epcCommit, s => (epcCommitBody s).2
  | .macEncode, s => epcIncrement s
  | .send, s => epcIncrement s
  | _, s => s

theorem commandBody_counter (i : Instr) (s : State) :
    (commandBody i s).2.counter = (counterStep i.mnemonic s).counter := by
  cases i
  case cmac => exact cmacBody_counter _ _ _ s
  case macEncode => exact macEncodeBody_counter _ _ _ s
  case phyAssemble => exact phyAssembleBody_counter _ _ s
  case whiten => exact whitenBody_counter _ s
  case tsmaAssign => exact tsmaAssignBody_counter _ _ s
  case syncEncode => exact syncEncodeBody_counter _ s
  case phyEncode => exact phyEncodeBody_counter _ _ _ s
  case send => exact sendBody_counter _ _ _ s
  case nop | epcLoad | epcCommit | aesBlock | cmacSubkeys | burstClear | writeSubPacketBit | writeBitIdx | addMidamble |
      diffMsk | puncture | ctrCrypt | numBursts | crc8 | convInterleave | lfsrStep | calcF0 | crc2 | tsmaPattern => rfl

/-! ### What a command does to the counter (R103) -/

/-- A check that fails reports a code other than 0. -/
theorem commandCheck_code_ne_zero {i : Instr} {s : State} {c : ErrorCode} (h : commandCheck i s = some c) :
    c.code ≠ 0#8 := by
  rw [commandCheck_eq_tables] at h
  have hmem := firstError_mem h
  simp only [List.mem_cons, Prod.mk.injEq, List.not_mem_nil, or_false] at hmem
  rcases hmem with ⟨_, rfl⟩ | ⟨_, rfl⟩ | ⟨_, rfl⟩ <;> decide

/-- A command either fails and keeps the counter, or succeeds and steps it as its row does. -/
theorem exec_counter {i : Instr} {s t : State} (h : exec i s = .next t) :
    (t.status.lastErr ≠ 0#8 ∧ t.counter = s.counter) ∨
    (t.status.lastErr = 0#8 ∧ t.counter = (counterStep i.mnemonic s).counter) := by
  have hlastOp : (counterStep i.mnemonic (s.setLastOp i.mnemonic.opcode)).counter =
      (counterStep i.mnemonic s).counter := by cases i <;> rfl
  have hbody := (commandBody_counter i (s.setLastOp i.mnemonic.opcode)).trans hlastOp
  rw [exec_eq_run] at h
  split at h
  · rcases runCommandF0_cases h with ⟨c, hcheck, rfl⟩ | ⟨_, rfl⟩
    · exact .inl ⟨commandCheck_code_ne_zero hcheck, rfl⟩
    · exact .inr ⟨rfl, hbody⟩
  · rcases runCommand_cases h with ⟨c, hcheck, rfl⟩ | ⟨_, rfl⟩
    · exact .inl ⟨commandCheck_code_ne_zero hcheck, rfl⟩
    · exact .inr ⟨rfl, hbody⟩

theorem epc_eq_of_counter_eq {s t : State} (h : t.counter = s.counter) : t.epc = s.epc := congrArg Prod.fst h

/-- A command other than EPC_LOAD, MAC_ENCODE and SEND steps the EPC to itself. -/
theorem counterStep_epc_other {m : Mnemonic} (hload : m ≠ .epcLoad) (hmac : m ≠ .macEncode) (hsend : m ≠ .send)
    (s : State) : (counterStep m s).epc = s.epc := by
  cases m
  case epcLoad => exact absurd rfl hload
  case macEncode => exact absurd rfl hmac
  case send => exact absurd rfl hsend
  all_goals rfl

/-- Settles O20, by the two ends of a command. -/
theorem epcChangesOnlyByLoadAndMacEncode : Obligations.EpcChangesOnlyByLoadAndMacEncode := by
  intro i s t h
  refine ⟨fun hload => ?_, fun huse => ?_, fun hload hmac hsend => ?_⟩
  · rw [hload, exec_epcLoad] at h
    rw [← Host.Outcome.next.inj h]
  · rcases exec_counter h with ⟨herr, hkept⟩ | ⟨hok, hstep⟩
    · rw [if_neg herr, epc_eq_of_counter_eq hkept]
    · rw [if_pos hok, epc_eq_of_counter_eq hstep]
      rcases huse with hm | hm <;> rw [hm] <;> rfl
  · rcases exec_counter h with ⟨_, hkept⟩ | ⟨_, hstep⟩
    · exact epc_eq_of_counter_eq hkept
    · exact (epc_eq_of_counter_eq hstep).trans (counterStep_epc_other hload hmac hsend s)

/-! ### The window of the last store (R105) -/

theorem WithinPersistWindow.of_counter_eq {s t : State} (hs : WithinPersistWindow s) (h : t.counter = s.counter) :
    WithinPersistWindow t := by
  obtain ⟨hepc, hstore⟩ := Prod.mk.inj h
  rwa [WithinPersistWindow, hepc, hstore]

/-- EPC_COMMIT stores the EPC itself. -/
theorem epcCommitBody_withinPersistWindow {s : State} (hbound : s.epc.toNat < 2 ^ 24) :
    WithinPersistWindow (epcCommitBody s).2 := by
  have hstore : (s.epc.setWidth 24).toNat = s.epc.toNat := by
    rw [BitVec.toNat_setWidth, Nat.mod_eq_of_lt hbound]
  show (s.epc.setWidth 24).toNat ≤ s.epc.toNat ∧ s.epc.toNat / 256 * 256 ≤ (s.epc.setWidth 24).toNat
  omega

/-- EpcIncrement enters a new block of 256 only when it stores the block's first counter. -/
theorem WithinPersistWindow.epcIncrement {s : State} (hs : WithinPersistWindow s) (hbound : s.epc.toNat + 1 < 2 ^ 24) :
    WithinPersistWindow (epcIncrement s) := by
  obtain ⟨hlow, hblock⟩ := hs
  have hepc : (s.epc + 1).toNat = s.epc.toNat + 1 := by bv_omega
  by_cases hroll : (s.epc + 1).toNat % 256 = 0
  · have hstore : ((s.epc + 1).setWidth 24).toNat = s.epc.toNat + 1 := by
      rw [BitVec.toNat_setWidth, hepc, Nat.mod_eq_of_lt hbound]
    rw [epcIncrement_of_rollover hroll]
    simp only [WithinPersistWindow, hepc, hstore]
    omega
  · rw [epcIncrement_of_no_rollover hroll]
    simp only [WithinPersistWindow, hepc] at hroll ⊢
    omega

theorem WithinPersistWindow.counterStep {s : State} (hs : WithinPersistWindow s) (hbound : s.epc.toNat + 1 < 2 ^ 24)
    {m : Mnemonic} (hload : m ≠ .epcLoad) : WithinPersistWindow (counterStep m s) := by
  cases m
  case epcLoad => exact absurd rfl hload
  case epcCommit => exact epcCommitBody_withinPersistWindow (by omega)
  case macEncode | send => exact hs.epcIncrement hbound
  all_goals exact hs

theorem mnemonic_eq_epcLoad_iff (i : Instr) : i.mnemonic = .epcLoad ↔ i = .epcLoad := by
  cases i <;> simp [Instr.mnemonic]

/-- A reload of EPC_STORE passes the whole block of 256 that the EPC is in. -/
theorem WithinPersistWindow.lt_loadedEpc {s : State} (hs : WithinPersistWindow s)
    (hbound : s.epc.toNat < 2 ^ 24 - 256) : s.epc.toNat < (loadedEpc s.epcStore).toNat := by
  obtain ⟨hlow, hblock⟩ := hs
  have hvalue : s.epcStore ≠ 0xFFFFFF#24 := by bv_omega
  rw [toNat_loadedEpc, if_neg hvalue]
  omega

/-- Settles O27: either end of a command keeps the window, and EPC_LOAD adds a whole block. -/
theorem persistWindowKeptAndReloadExceedsIt : Obligations.PersistWindowKeptAndReloadExceedsIt := by
  constructor
  · intro i s t hload hbound hs h
    rcases exec_counter h with ⟨_, hkept⟩ | ⟨_, hstep⟩
    · exact hs.of_counter_eq hkept
    · exact (hs.counterStep hbound (mt (mnemonic_eq_epcLoad_iff i).1 hload)).of_counter_eq hstep
  · intro s u hs hbound hval
    refine ⟨_, exec_epcLoad u, ?_⟩
    rw [hval]
    exact hs.lt_loadedEpc hbound

/-! ### R105 as written -/

/-- A power cycle that ends before its first store: the locks, then one MAC_ENCODE of no payload. -/
def onePacket : List HostEvent := [.write 0x010#16 .word 0x3#32, commandWrite (encode (.macEncode 0 0 0))]

/-- Both power cycles are booted from 0x100: the step of the EPC to 0x201 has requested no store. -/
theorem powerCycles_onePacket_used :
    (powerCycles 0x100#24 [onePacket, onePacket]).map PowerCycle.used = [[0x200], [0x200]] := by
  decide +kernel

/-- Refutes O8: two power cycles of one packet each from a stored 0x100 use the same EPC. -/
theorem not_countersUsedAfterABootExceedEarlierOnes : ¬ Obligations.CountersUsedAfterABootExceedEarlierOnes := by
  intro h
  have hused : ((powerCycles 0x100#24 [onePacket, onePacket]).map PowerCycle.used).Pairwise
      (fun earlier later => ∀ x ∈ earlier, ∀ y ∈ later, x < y) :=
    List.pairwise_map.2 (h _ _ (by decide +kernel) (by decide +kernel))
  rw [powerCycles_onePacket_used] at hused
  exact absurd hused (by decide)

end Sys2Proof.Machine
end

section
/-! Commands that write nothing but bytes of memory (30_encoding.md R97): how they end, and what a block stored in one
region leaves in the others. -/

namespace Sys2Proof.Machine

/-! ### The two ends of a command (R97; 60_exceptions.md R175) -/

/-- LAST_OP is no operand of a check. -/
theorem commandError_setLastOp (i : Instr) (s : State) (op : Byte) :
    commandError i (s.setLastOp op) = commandError i s := by
  cases i <;> rfl

/-- A command with an error of the tables ends in it. -/
theorem exec_of_commandError {i : Instr} {s : State} {c : Byte} (hF0 : clearsF0 i = false)
    (h : commandError i s = some c) : exec i s = .next (s.failed i.mnemonic.opcode c) := by
  rw [← commandError_setLastOp i s i.mnemonic.opcode, ← code_commandCheck, Option.map_eq_some_iff] at h
  obtain ⟨e, hcheck, rfl⟩ := h
  rw [exec_eq_run, hF0, if_neg Bool.false_ne_true, runCommand_error hcheck, setLastOp_raiseError]

/-- A command without an error whose body depends on no report (10_state.md R57) and writes only memory. -/
theorem exec_of_writesMemory {i : Instr} {s : State} (hnone : commandError i s = none)
    (hquiet : ∀ st v e, commandBody i (s.withReports st v e) =
      ((commandBody i s).1, (commandBody i s).2.withReports st v e))
    (hframe : (commandBody i s).2 = { s with mem := (commandBody i s).2.mem }) :
    exec i s = .next { s with
      status := { lastErr := 0x00#8, lastOp := i.mnemonic.opcode }, result := (commandBody i s).1,
      mem := (commandBody i s).2.mem } := by
  have hop : s.setLastOp i.mnemonic.opcode =
      s.withReports { s.status with lastOp := i.mnemonic.opcode } s.result s.events := rfl
  rw [exec_of_check_none (commandCheck_eq_none hnone _), hop, hquiet, hframe]
  rfl

/-! ### Blocks in regions (41_aes_cmac.md R106) -/

/-- A block stored in one region leaves the bytes of every other. -/
theorem setBlock_byte_other (s : State) {g h : ByteRegion} (x : Block) (hne : g ≠ h) (hg : g.size = 16) {i : Nat}
    (hi : i < h.size) : (s.setBlock g x).byte h i = s.byte h i := by
  refine setBlock_read_outside s g x ?_
  rcases regions_disjoint g h with rfl | hbelow | habove
  · exact absurd rfl hne
  · omega
  · omega

theorem setBlock_block_other (s : State) {g h : ByteRegion} (x : Block) (hne : g ≠ h) (hg : g.size = 16)
    (hh : h.size = 16) : (s.setBlock g x).block h = s.block h := by
  refine congrArg blockOfBytes (List.map_congr_left fun i hi => ?_)
  exact setBlock_byte_other s x hne hg (by have := List.mem_range.1 hi; omega)

/-- K1 after the subkeys are written (R114); K2 is stored after it, elsewhere. -/
theorem writeSubkeys_byte_k1 (s : State) {i : Nat} (hi : i < 16) :
    (writeSubkeys s).byte .k1 i = blockByte (subkey1 (s.block .key)) i := by
  rw [writeSubkeys_eq, setBlock_byte_other _ _ (by decide) rfl hi, setBlock_byte _ _ _ hi]

theorem writeSubkeys_byte_k2 (s : State) {i : Nat} (hi : i < 16) :
    (writeSubkeys s).byte .k2 i = blockByte (subkey2 (s.block .key)) i := by
  rw [writeSubkeys_eq, setBlock_byte _ _ _ hi]

/-- The subkeys are all that is written. -/
theorem writeSubkeys_read_outside (s : State) {a : Nat} (ha : ¬(0x0140 ≤ a ∧ a ≤ 0x015F)) :
    (writeSubkeys s).mem.read a = s.mem.read a := by
  rw [writeSubkeys_eq, setBlock_read_outside, setBlock_read_outside] <;> simp only [ByteRegion.base] <;> omega

end Sys2Proof.Machine
end

section
/-! The AES-128 cipher and the CMAC tagger (41_aes_cmac.md R106 to R118): the S-box, the doubling, the selection of the
last block, and what AES_BLOCK, CMAC_SUBKEYS and CMAC leave. -/

namespace Sys2Proof.Machine

/-! ### The cipher (R107 to R112) -/

/-- Each of the 256 entries of the table is the affine image of x^254 (R108), and x^254 the inverse of each of the 255
nonzero bytes: one evaluation of the power serves both. -/
theorem sbox_eq_affine_and_gfMul_gfInv : ∀ x : Byte,
    sbox x = sboxAffine (gfInv x) ^^^ 0x63#8 ∧ (x ≠ 0#8 → gfMul x (gfInv x) = 1#8) := by
  decide +kernel

/-- The source's vector (95_test_vectors.md L1.1). -/
theorem aes_sourceVector :
    aes 0x2b7e151628aed2a6abf7158809cf4f3c#128 0x6bc1bee22e409f96e93d7e117393172a#128 =
      0x3ad77bb40d7a3660a89ecaf32466ef97#128 := by
  decide +kernel

/-- Settles O28: the table entry by entry, and one run of the cipher. -/
theorem sboxIsAffineOfInverseAndSourceVector : Obligations.SboxIsAffineOfInverseAndSourceVector :=
  ⟨sbox_eq_affine_and_gfMul_gfInv, aes_sourceVector⟩

/-- Settles O29: AES_BLOCK has no check, and its body stores one block in AES_OUT. -/
theorem aesBlockResult : Obligations.AesBlockResult := by
  intro s
  refine ⟨_, exec_of_writesMemory rfl (aesBlockBody_withReports s) (aesBlockBody_frame s), rfl, ?_, ?_⟩
  · intro i hi
    exact setBlock_byte s .aesOut _ hi
  · intro a ha
    exact setBlock_read_outside s .aesOut _ (by simp only [ByteRegion.base]; omega)

/-! ### Doubling and CMAC_SUBKEYS (R113, R114, R117) -/

/-- The doubling as a number: the bit shifted out is the block's top bit. -/
theorem toNat_dbl (b : Block) : (dbl b).toNat =
    if 2 ^ 127 ≤ b.toNat then (2 * b.toNat - 2 ^ 128) ^^^ 0x87 else 2 * b.toNat := by
  have hlt := b.isLt
  have hshift : (b <<< 1).toNat = if 2 ^ 127 ≤ b.toNat then 2 * b.toNat - 2 ^ 128 else 2 * b.toNat := by
    rw [BitVec.toNat_shiftLeft, Nat.shiftLeft_eq]
    split <;> omega
  rw [dbl, BitVec.msb_eq_decide]
  by_cases htop : 2 ^ 127 ≤ b.toNat
  · rw [if_pos htop] at hshift ⊢
    rw [if_pos (decide_eq_true htop), BitVec.toNat_xor, hshift]
    rfl
  · rw [if_neg htop] at hshift ⊢
    rw [if_neg (by simpa using htop), hshift]

/-- Settles O30: CMAC_SUBKEYS has no check, and its body writes the two subkeys. -/
theorem cmacSubkeysResult : Obligations.CmacSubkeysResult := by
  refine ⟨toNat_dbl, fun s => ?_⟩
  refine ⟨_, exec_of_writesMemory rfl (cmacSubkeysBody_withReports s) (writeSubkeys_frame s), rfl, ?_, ?_⟩
  · intro i hi
    exact ⟨writeSubkeys_byte_k1 s hi, writeSubkeys_byte_k2 s hi⟩
  · intro a ha
    exact writeSubkeys_read_outside s ha

/-! ### CMAC the command (R118) -/

/-- The message of CMAC, by the bit IVP and the bytes of the slice. -/
theorem cmacMessage_eq (start len : Nat) (ivp : BitVec 1) (s : State) : cmacMessage start len (ivp == 1#1) s =
    if ivp = 1#1 then cmacIv s ++ (List.range len).map (fun i => s.byte .mpdu (start + i))
    else (List.range len).map (fun i => s.byte .mpdu (start + i)) := by
  simp only [cmacMessage, State.bytes, beq_iff_eq]

/-- CMAC has no length to check: its two errors, the slice's before the locks'. -/
theorem commandError_cmac (start : BitVec 8) (len : BitVec 9) (ivp : BitVec 1) (s : State) :
    commandError (.cmac start len ivp) s =
      if 256 < start.toNat + len.toNat then some 6#8 else if ivp = 1#1 ∧ ¬Provisioned s then some 1#8 else none := by
  simp only [commandError, rangeError, configError, lengthError, decide_eq_true_eq, Bool.false_eq_true, if_false]

section
variable (start len : Nat) (ivp : Bool) (s : State)

/-- The body of CMAC stores the tag, and then the subkeys of a KEY that the tag's store leaves alone. -/
theorem cmacBody_byte_tag {i : Nat} (hi : i < 16) : (cmacBody start len ivp s).2.byte .tag i =
    blockByte (cmac (s.block .key) (cmacMessage start len ivp s)) i := by
  refine (writeSubkeys_read_outside _ ?_).trans (setBlock_byte s .tag _ hi)
  simp only [ByteRegion.base]
  omega

theorem cmacBody_byte_k1 {i : Nat} (hi : i < 16) :
    (cmacBody start len ivp s).2.byte .k1 i = blockByte (subkey1 (s.block .key)) i := by
  rw [cmacBody, writeSubkeys_byte_k1 _ hi, setBlock_block_other s _ (by decide) rfl rfl]

theorem cmacBody_byte_k2 {i : Nat} (hi : i < 16) :
    (cmacBody start len ivp s).2.byte .k2 i = blockByte (subkey2 (s.block .key)) i := by
  rw [cmacBody, writeSubkeys_byte_k2 _ hi, setBlock_block_other s _ (by decide) rfl rfl]

theorem cmacBody_read_outside {a : Nat} (ha : ¬(0x0140 ≤ a ∧ a ≤ 0x016F)) :
    (cmacBody start len ivp s).2.mem.read a = s.mem.read a := by
  refine (writeSubkeys_read_outside _ (by omega)).trans (setBlock_read_outside s .tag _ ?_)
  simp only [ByteRegion.base]
  omega

end

/-- Settles O31, by the two errors in their order and the body. -/
theorem cmacResult : Obligations.CmacResult := by
  intro s start len ivp
  have herror := commandError_cmac start len ivp s
  refine ⟨fun hslice => ?_, fun hslice hiv hlocks => ?_, fun hslice hlocks => ?_⟩
  · rw [if_pos hslice] at herror
    exact exec_of_commandError rfl herror
  · rw [if_neg (by omega), if_pos ⟨hiv, hlocks⟩] at herror
    exact exec_of_commandError rfl herror
  · rw [if_neg (by omega), if_neg fun ⟨hiv, hmissing⟩ => hmissing (hlocks hiv)] at herror
    have hquiet := fun st v e => cmacBody_withReports s st v e start.toNat len.toNat (ivp == 1#1)
    refine ⟨_, exec_of_writesMemory herror hquiet (cmacBody_frame _ _ _ s), ?_⟩
    intro data tag
    have htag : cmac (s.block .key) (cmacMessage start.toNat len.toNat (ivp == 1#1) s) = tag := by
      rw [cmacMessage_eq]
    refine ⟨rfl, ?_, fun i hi => ⟨?_, ?_, ?_⟩, fun a ha => ?_⟩
    · rw [← htag]
      rfl
    · rw [← htag]
      exact cmacBody_byte_tag _ _ _ s hi
    · exact cmacBody_byte_k1 _ _ _ s hi
    · exact cmacBody_byte_k2 _ _ _ s hi
    · exact cmacBody_read_outside _ _ _ s ha

/-! ### CMAC of a message (R113, R115, R116) -/

theorem blockOfBytes_append_singleton (bs : List Byte) (b : Byte) :
    blockOfBytes (bs ++ [b]) = (blockOfBytes bs <<< 8) ||| b.setWidth 128 := by
  simp [blockOfBytes]

/-- A block made of bytes, read from its low end: the list from its last byte. -/
theorem extractLsb'_blockOfBytes (bs : List Byte) {j : Nat} (hj : j < 16) :
    (blockOfBytes bs).extractLsb' (8 * j) 8 = bs.reverse.getD j 0#8 := by
  induction bs using List.reverseRecOn generalizing j with
  | nil => simp [blockOfBytes]
  | append_singleton bs b ih =>
    rw [blockOfBytes_append_singleton, List.reverse_append, List.reverse_singleton, List.singleton_append]
    cases j with
    | zero =>
      rw [List.getD_cons_zero]
      refine BitVec.eq_of_getLsbD_eq fun k hk => ?_
      have hin : k < 128 := by omega
      simp [hk, hin]
    | succ j =>
      rw [List.getD_cons_succ, ← ih (by omega)]
      refine BitVec.eq_of_getLsbD_eq fun k hk => ?_
      have hin : 8 * (j + 1) + k < 128 := by omega
      have hpast : ¬8 * (j + 1) + k < 8 := by omega
      have hback : 8 * (j + 1) + k - 8 = 8 * j + k := by omega
      have hzero : b.getLsbD (8 * (j + 1) + k) = false := BitVec.getLsbD_of_ge b _ (by omega)
      simp only [BitVec.getLsbD_extractLsb', BitVec.getLsbD_or, BitVec.getLsbD_shiftLeft, BitVec.getLsbD_setWidth, hin,
        hpast, hback, hzero, decide_true, decide_false, Bool.not_false, Bool.true_and, Bool.and_false, Bool.or_false]

/-- A block has the bytes it is made of, in order. -/
theorem blockByte_blockOfBytes {bs : List Byte} (hlen : bs.length = 16) {i : Nat} (hi : i < 16) :
    blockByte (blockOfBytes bs) i = bs.getD i 0 := by
  rw [blockByte, show 120 - 8 * i = 8 * (15 - i) by omega, extractLsb'_blockOfBytes bs (by omega),
    List.getD_reverse _ (by omega), show bs.length - 1 - (15 - i) = i by omega]
  rfl

/-- The last block is whole exactly when the message is not empty and its length a multiple of 16. -/
theorem cmac_tail_whole_iff (len : Nat) : len - 16 * ((len - 1) / 16) = 16 ↔ len ≠ 0 ∧ len % 16 = 0 := by
  omega

/-- The last block as it is chained (R115), by its bytes: whole, with K1, or padded, with K2. -/
def cmacLastBlock (k : Block) (tail : List Byte) : Block :=
  if tail.length = 16 then blockOfBytes tail ^^^ dbl (aes k 0)
  else blockOfBytes (tail ++ 0x80#8 :: List.replicate (15 - tail.length) 0#8) ^^^ dbl (dbl (aes k 0))

theorem cmacLast_eq (k : Block) (msg : List Byte) (n : Nat) (complete : Bool)
    (h : complete = true ↔ (msg.drop (16 * (n - 1))).length = 16) :
    cmacLast k msg n complete = cmacLastBlock k (msg.drop (16 * (n - 1))) := by
  by_cases hwhole : complete = true
  · rw [cmacLast, cmacLastBlock, if_pos hwhole, if_pos (h.1 hwhole)]
    rfl
  · rw [cmacLast, cmacLastBlock, if_neg hwhole, if_neg (mt h.2 hwhole)]
    rfl

/-- CMAC of any message: the chain over all blocks but the last, then the last. -/
theorem cmac_eq_chain_last (k : Block) (msg : List Byte) : cmac k msg =
    aes k (cmacChain k msg ((msg.length - 1) / 16) ^^^ cmacLastBlock k (msg.drop (16 * ((msg.length - 1) / 16)))) := by
  rw [← cmac_chained_blocks, cmac, cmac_loop_eq_chain, cmacLast_eq]
  rw [List.length_drop, cmac_chained_blocks, cmac_tail_whole_iff]
  simp

/-- A message of at most 16 bytes is one block, with nothing chained before it. -/
theorem cmac_of_length_le (k : Block) {msg : List Byte} (h : msg.length ≤ 16) :
    cmac k msg = aes k (cmacLastBlock k msg) := by
  rw [cmac_eq_chain_last, show (msg.length - 1) / 16 = 0 by omega, cmacChain, BitVec.zero_xor]
  rfl

/-- The chain over one block of 16 bytes. -/
theorem cmacChain_append_one (k : Block) {iv : List Byte} (msg : List Byte) (h : iv.length = 16) :
    cmacChain k (iv ++ msg) 1 = aes k (blockOfBytes iv) := by
  rw [cmacChain, cmacChain, BitVec.zero_xor, Nat.mul_zero, List.drop_zero, List.take_left' h]

/-- Two whole blocks: the first is chained, the second takes K1. -/
theorem cmac_two_blocks (k : Block) {iv msg : List Byte} (hiv : iv.length = 16) (hmsg : msg.length = 16) :
    cmac k (iv ++ msg) = aes k (aes k (blockOfBytes iv) ^^^ blockOfBytes msg ^^^ dbl (aes k 0)) := by
  rw [cmac_eq_chain_last, List.length_append, hiv, hmsg, cmacChain_append_one k msg hiv, List.drop_left' hiv,
    cmacLastBlock, if_pos hmsg, BitVec.xor_assoc]

/-- Settles O32: the general form of CMAC, then its cases of one and two blocks. -/
theorem cmacBlockSelection : Obligations.CmacBlockSelection := by
  refine ⟨fun bytes hlen i hi => blockByte_blockOfBytes hlen hi, fun k msg => cmac_eq_chain_last k msg,
    fun k iv msg hiv => ⟨fun _ => cmacChain_append_one k msg hiv, ?_, ?_, cmac_two_blocks k hiv⟩⟩
  · rw [cmac_of_length_le k hiv.le, cmacLastBlock, if_pos hiv]
  · exact cmac_of_length_le k (Nat.zero_le 16)

end Sys2Proof.Machine
end

section
/-! The radio-burst assembler (42_radioburst.md R119 to R126): the commands that write nothing but burst records, the
positions of a burst's data bits, and the running XOR of DIFF_MSK with what undoes it. -/

namespace Sys2Proof.Machine

/-! ### Commands whose one error is OPERAND_RANGE (60_exceptions.md R169, R175) -/

/-- A command with an operand out of range ends in OPERAND_RANGE, the first error of R173. -/
theorem exec_of_rangeError {i : Instr} {s : State} (hF0 : clearsF0 i = false) (h : rangeError s i = true) :
    exec i s = .next (s.failed i.mnemonic.opcode 6#8) :=
  exec_of_commandError hF0 (by rw [commandError, if_pos h])

/-- A command with its operands in range, no error of the other tables, and a body that writes only the record file. -/
theorem exec_of_writesBursts {i : Instr} {s : State} {v : Word} {b : Bursts} (hrange : rangeError s i = false)
    (hconfig : configError s i = false) (hlength : lengthError s i = false)
    (hbody : ∀ op, commandBody i (s.setLastOp op) = (v, { s.setLastOp op with bursts := b })) :
    exec i s = .next { s with
      status := { lastErr := 0x00#8, lastOp := i.mnemonic.opcode }, result := v, bursts := b } := by
  have hnone : commandError i s = none := by simp [commandError, hrange, hconfig, hlength]
  rw [exec_of_check_none (commandCheck_eq_none hnone _), hbody]
  rfl

/-- A command of that kind whose body stores one record `x` at `r`: its effect, record by record. -/
theorem exec_of_setsBurst {i : Instr} {s : State} {v : Word} {r : Nat} {x : BurstRec} (hr : r ≤ 259)
    (hrange : rangeError s i = false) (hconfig : configError s i = false) (hlength : lengthError s i = false)
    (hbody : ∀ op, commandBody i (s.setLastOp op) = (v, (s.setLastOp op).setBurst r x)) :
    ∃ t, exec i s = .next t ∧
      t = { s with
        status := { lastErr := 0x00#8, lastOp := i.mnemonic.opcode }, result := v, bursts := t.bursts } ∧
      (∀ q, q ≠ r → t.burst q = s.burst q) ∧ t.burst r = x :=
  ⟨_, exec_of_writesBursts hrange hconfig hlength hbody, rfl, fun _ hq => Bursts.rec_put_other _ _ hq,
    Bursts.rec_put_same _ _ (by omega)⟩

/-! ### BURST_CLEAR and PUNCTURE (R120, R126) -/

/-- Settles O33, by the loop over records. -/
theorem burstClearResult : Obligations.BurstClearResult := by
  intro s n
  refine ⟨fun hpast => exec_of_rangeError rfl (decide_eq_true hpast), fun hn => ?_⟩
  have hrange : rangeError s (.burstClear n) = false := decide_eq_false (by omega)
  exact ⟨_, exec_of_writesBursts hrange rfl rfl fun _ => rfl, rfl, fun r _ => burstClearBody_burst n.toNat hn s r⟩

/-- Settles O41: BIT_LENGTH is derived from the carrier that was stored. -/
theorem punctureResult : Obligations.PunctureResult := by
  intro s r
  refine ⟨fun hpast => exec_of_rangeError rfl (decide_eq_true hpast), fun hr => ?_⟩
  have hrange : rangeError s (.puncture r) = false := decide_eq_false (by omega)
  obtain ⟨t, hexec, hframe, hother, hrec⟩ := exec_of_setsBurst
    (x := { s.burst r.toNat with carrier := 0xFFFF#16 }) hr hrange rfl rfl fun _ => rfl
  refine ⟨t, hexec, hframe, hother, hrec, ?_⟩
  rw [readLoc_burstBitLength, hrec]
  rfl

/-! ### The data positions and WRITE_SUB_PACKET_BIT (R119, R121) -/

/-- The interleaved mapping by the parity of record and cursor together. -/
theorem subPacketPos_eq (r n : Nat) : subPacketPos r n = if (r + n) % 2 = 1 then 24 + n / 2 else 11 - n / 2 := by
  rw [subPacketPos, Nat.xor_mod_two_eq]

theorem subPacketPos_mem_dataSlots (r : Nat) {n : Nat} (hn : n < 24) :
    subPacketPos r n < 12 ∨ (24 ≤ subPacketPos r n ∧ subPacketPos r n < 36) := by
  rw [subPacketPos_eq]
  split <;> omega

/-- One position has one parity, so two cursors on it are in one half of the mapping. -/
theorem subPacketPos_inj (r : Nat) {n k : Nat} (hn : n < 24) (hk : k < 24)
    (h : subPacketPos r n = subPacketPos r k) : n = k := by
  rw [subPacketPos_eq, subPacketPos_eq] at h
  split at h <;> split at h <;> omega

/-- Settles O35, by the two halves of the mapping. -/
theorem subPacketPositionsFillDataSlots : Obligations.SubPacketPositionsFillDataSlots :=
  fun r => ⟨fun _ hn => subPacketPos_mem_dataSlots r hn, fun _ hn _ hk h => subPacketPos_inj r hn hk h⟩

/-- Settles O34: the record stored is `pushDataBit`'s, and a data position plus the head is a stream bit. -/
theorem writeSubPacketBitResult : Obligations.WriteSubPacketBitResult := by
  intro s r bit
  refine ⟨fun herror => exec_of_rangeError rfl (by simpa [rangeError] using herror), fun hr hcursor => ?_⟩
  have hrange : rangeError s (.writeSubPacketBit r bit) = false := by simp [rangeError, hr, hcursor]
  obtain ⟨t, hexec, hframe, hother, hrec⟩ := exec_of_setsBurst
    (v := BitVec.ofNat 32 (subPacketPos r.toNat (s.burst r.toNat).cursor.toNat + headBits))
    (x := pushDataBit r.toNat (bit == 1#1) (s.burst r.toNat)) hr hrange rfl rfl fun _ => rfl
  have hslot := subPacketPos_mem_dataSlots r.toNat hcursor
  refine ⟨t, hexec, ?_⟩
  intro n pos
  have hpos : subPacketPos r.toNat n = pos := subPacketPos_eq _ _
  refine ⟨?_, hother, ?_, fun i hi => ?_⟩
  · rw [← hpos]
    exact hframe
  · rw [hrec]
    simp [pushDataBit, n, BitVec.ofNat_add]
  · rw [hrec, ← hpos]
    exact burstBit_write _ _ (by simp only [headBits]; omega) hi

/-! ### WRITE_BIT_IDX and ADD_MIDAMBLE (R122, R123) -/

/-- Settles O36: the record stored is the old one with stream bit IDX written. -/
theorem writeBitIdxResult : Obligations.WriteBitIdxResult := by
  intro s r idx bit
  refine ⟨fun herror => exec_of_rangeError rfl (by simpa [rangeError] using herror), fun hr hidx => ?_⟩
  have hrange : rangeError s (.writeBitIdx r idx bit) = false := by simp [rangeError, hr, hidx]
  obtain ⟨t, hexec, hframe, hother, hrec⟩ := exec_of_setsBurst
    (x := { s.burst r.toNat with bits := burstBitWrite (s.burst r.toNat).bits idx.toNat (bit == 1#1) })
    hr hrange rfl rfl fun _ => rfl
  refine ⟨t, hexec, hframe, hother, by rw [hrec], fun i hi => ?_⟩
  rw [hrec]
  exact burstBit_write _ _ (by omega) hi

/-- The two midambles of R123, leftmost digit first. -/
theorem midamble_digits (r : Nat) {j : Nat} (hj : j < 12) : (midamble r).getLsbD (11 - j) =
    (if r < 24 then [false, true, true, true, false, true, false, false, false, false, true, false]
      else [false, true, false, false, true, true, true, true, true, false, true, false]).getD j false := by
  rw [midamble, coreBursts]
  split
  · revert j
    decide
  · revert j
    decide

/-- Settles O37, digit by digit. -/
theorem addMidambleResult : Obligations.AddMidambleResult := by
  intro s r
  refine ⟨fun hpast => exec_of_rangeError rfl (decide_eq_true hpast), fun hr => ?_⟩
  have hrange : rangeError s (.addMidamble r) = false := decide_eq_false (by omega)
  obtain ⟨t, hexec, hframe, hother, hrec⟩ := exec_of_setsBurst
    (x := { s.burst r.toNat with bits := withMidamble r.toNat (s.burst r.toNat).bits }) hr hrange rfl rfl fun _ => rfl
  refine ⟨t, hexec, hframe, hother, by rw [hrec], fun i hi => ?_⟩
  rw [hrec]
  refine (burstBit_withMidamble r.toNat _ hi).trans ?_
  by_cases hin : 14 ≤ i ∧ i ≤ 25
  · rw [if_pos hin, if_pos (by omega), show 25 - i = 11 - (i - 14) by omega, midamble_digits _ (by omega)]
  · rw [if_neg hin, if_neg (by omega)]

/-! ### The running XOR of DIFF_MSK (R124) and its inverse (R125) -/

theorem prefixXor_zero (b : BurstBits) : prefixXor b 0 = burstBit b 0 := by
  simp [prefixXor]

theorem prefixXor_succ (b : BurstBits) (i : Nat) : prefixXor b (i + 1) = (prefixXor b i ^^ burstBit b (i + 1)) := by
  rw [prefixXor, List.range_succ, List.foldl_concat]
  rfl

/-- The loop of DIFF_MSK before stream bit `n`: the bits below are integrated, the others are the input's, and the bit
carried along is the one that makes bit `n` the XOR of the input's bits 0..n. -/
def IntegratedBelow (b : BurstBits) (n : Nat) (p : Bool × BurstBits) : Prop :=
  (p.1 ^^ burstBit b n) = prefixXor b n ∧
    ∀ i < 40, burstBit p.2 i = if i < n then prefixXor b i else burstBit b i

theorem integratedBelow_zero (b : BurstBits) : IntegratedBelow b 0 (false, b) :=
  ⟨by rw [Bool.false_xor, prefixXor_zero], fun i _ => by rw [if_neg (Nat.not_lt_zero i)]⟩

theorem integratedBelow_succ {b : BurstBits} {n : Nat} {p : Bool × BurstBits} (hn : n < 40)
    (h : IntegratedBelow b n p) :
    IntegratedBelow b (n + 1) (burstBit p.2 n ^^ p.1, burstBitWrite p.2 n (burstBit p.2 n ^^ p.1)) := by
  obtain ⟨hcarry, hbits⟩ := h
  have hvalue : (burstBit p.2 n ^^ p.1) = prefixXor b n := by
    rw [hbits n hn, if_neg (Nat.lt_irrefl n), Bool.xor_comm, hcarry]
  refine ⟨?_, fun i hi => ?_⟩
  · rw [hvalue, prefixXor_succ]
  · rw [hvalue, burstBit_write _ _ hn hi, hbits i hi]
    rcases Nat.lt_trichotomy i n with hlt | rfl | hgt
    · rw [if_neg (by omega), if_pos hlt, if_pos (by omega)]
    · rw [if_pos rfl, if_pos (by omega)]
    · rw [if_neg (by omega), if_neg (by omega), if_neg (by omega)]

theorem burstBit_integrate (b : BurstBits) {i : Nat} (hi : i < 40) : burstBit (integrate b) i = prefixXor b i := by
  have hloop : IntegratedBelow b 40 _ := forRange_induct (Nat.zero_le 40) _ (false, b) (IntegratedBelow b)
    (integratedBelow_zero b) fun n _ _ hn h => integratedBelow_succ hn h
  obtain ⟨_, hbits⟩ := hloop
  exact (hbits i hi).trans (if_pos hi)

/-- The stream bits of DIFF_MSK: the head bit is forced after the running XOR has passed over it. -/
theorem burstBit_diffMskBits (b : BurstBits) {i : Nat} (hi : i < 40) :
    burstBit (diffMskBits b) i = if i = 0 then true else prefixXor b i := by
  rw [diffMskBits, burstBit_write _ _ (by decide) hi, burstBit_integrate b hi]

/-- Settles O38, by the stream bits of DIFF_MSK. -/
theorem diffMskResult : Obligations.DiffMskResult := by
  intro s r
  refine ⟨fun hpast => exec_of_rangeError rfl (decide_eq_true hpast), fun hr => ?_⟩
  have hrange : rangeError s (.diffMsk r) = false := decide_eq_false (by omega)
  obtain ⟨t, hexec, hframe, hother, hrec⟩ := exec_of_setsBurst
    (x := { s.burst r.toNat with bits := diffMskBits (s.burst r.toNat).bits }) hr hrange rfl rfl fun _ => rfl
  refine ⟨t, hexec, hframe, hother, by rw [hrec], fun i hi => ?_⟩
  rw [hrec]
  exact burstBit_diffMskBits _ hi

/-- Settles O39: neighbouring prefixes differ by one input bit, and the head bit stands in for the prefix of bit 0. -/
theorem diffMskRoundTripFromPositionTwo : Obligations.DiffMskRoundTripFromPositionTwo := by
  intro x
  refine ⟨fun i htwo hi => ?_, ?_⟩
  · obtain ⟨j, rfl⟩ : ∃ j, i = j + 1 := ⟨i - 1, by omega⟩
    rw [Nat.add_sub_cancel, burstBit_diffMskBits x hi, burstBit_diffMskBits x (by omega), if_neg (by omega),
      if_neg (by omega), prefixXor_succ, Bool.xor_comm, ← Bool.xor_assoc, Bool.xor_self, Bool.false_xor]
  · rw [burstBit_diffMskBits x (by decide), burstBit_diffMskBits x (by decide), if_neg (by decide), if_pos rfl,
      prefixXor_succ, prefixXor_zero, Bool.xor_true, ← Bool.not_xor, Bool.xor_comm]

/-- Refutes O40: the stream of zeros becomes a 1 and 39 zeros, whose bits 0 and 1 differ though input bit 1 is 0. -/
theorem not_diffMskRoundTripFromPositionOne : ¬ Obligations.DiffMskRoundTripFromPositionOne := by
  intro h
  exact absurd (h 0#40 1 (by decide) (by decide)) (by decide)

end Sys2Proof.Machine
end

section
/-! MAC framing and encryption (43_mac.md R128 to R134): the IV blocks and the keystream byte by byte, CTR_CRYPT run
once and twice, and the MPDU that MAC_ENCODE builds. -/

namespace Sys2Proof.Machine

/-! ### Consecutive bytes stored in one region, seen from another (20_memory.md R60) -/

/-- Bytes stored inside one region leave those of every other. -/
theorem setBytes_byte_other (s : State) {g h : ByteRegion} {a : Nat} {bs : List Byte} (hne : g ≠ h)
    (hfit : a + bs.length ≤ g.size) {i : Nat} (hi : i < h.size) : (s.setBytes g a bs).byte h i = s.byte h i := by
  refine setBytes_read_outside s g a bs ?_
  rcases regions_disjoint g h with rfl | hbelow | habove
  · exact absurd rfl hne
  · omega
  · omega

theorem setBytes_block_other (s : State) {g h : ByteRegion} {a : Nat} {bs : List Byte} (hne : g ≠ h)
    (hfit : a + bs.length ≤ g.size) (hh : h.size = 16) : (s.setBytes g a bs).block h = s.block h := by
  refine congrArg blockOfBytes (List.map_congr_left fun i hi => ?_)
  exact setBytes_byte_other s hne hfit (by have := List.mem_range.1 hi; omega)

/-- A block is made of its own bytes. -/
theorem blockOfBytes_blockBytes (x : Block) : blockOfBytes (blockBytes x) = x := by
  refine BitVec.eq_of_getLsbD_eq fun k hk => ?_
  have hbyte : (blockOfBytes (blockBytes x)).extractLsb' (8 * (k / 8)) 8 = x.extractLsb' (8 * (k / 8)) 8 := by
    rw [extractLsb'_blockOfBytes _ (by omega), List.getD_reverse _ (by rw [blockBytes_length]; omega),
      List.getD_eq_getElem _ _ (by rw [blockBytes_length]; omega), blockBytes_getElem, blockBytes_length, blockByte,
      show 120 - 8 * (16 - 1 - k / 8) = 8 * (k / 8) by omega]
  have hbit := congrArg (fun b : Byte => b.getLsbD (k % 8)) hbyte
  simpa only [BitVec.getLsbD_extractLsb', Nat.mod_lt k (show 0 < 8 by decide), decide_true, Bool.true_and,
    Nat.div_add_mod] using hbit

/-! ### The IV blocks and the keystream (R130, R133) -/

/-- The keystream depends on KEY, EUI64 and the EPC alone. -/
theorem keystreamByte_congr {s t : State} (hepc : t.epc = s.epc) (hread : ∀ a < 0x118, t.mem.read a = s.mem.read a)
    (j : Nat) : keystreamByte t j = keystreamByte s j := by
  have hkey : t.block .key = s.block .key :=
    congrArg blockOfBytes (List.map_congr_left fun i hi => hread _ (by
      have := List.mem_range.1 hi
      simp only [ByteRegion.base]
      omega))
  have heui : t.bytes .eui64 0 8 = s.bytes .eui64 0 8 :=
    List.map_congr_left fun i hi => hread _ (by
      have := List.mem_range.1 hi
      simp only [ByteRegion.base]
      omega)
  have hiv (b : Nat) : ctrIv t b = ctrIv s b := by
    rw [ctrIv, ctrIv, ivBase, ivBase, heui, hepc]
  rw [keystreamByte, keystreamByte, hkey, hiv]

/-- Blocks one after another, byte by byte. -/
theorem getElem?_flatMap_blockBytes (f : Nat → Block) {n j : Nat} (hj : j < 16 * n) :
    ((List.range n).flatMap fun b => blockBytes (f b))[j]? = some (blockByte (f (j / 16)) (j % 16)) := by
  induction n with
  | zero => omega
  | succ n ih =>
    have hlength : ((List.range n).flatMap fun b => blockBytes (f b)).length = 16 * n := by
      simp [List.length_flatMap, Nat.mul_comm]
    rw [List.range_succ, List.flatMap_append, List.flatMap_singleton]
    by_cases hbefore : j < 16 * n
    · rw [List.getElem?_append_left (by omega), ih hbefore]
    · rw [List.getElem?_append_right (by omega), hlength, show j / 16 = n by omega,
        show j - 16 * n = j % 16 by omega, List.getElem?_eq_getElem (by rw [blockBytes_length]; omega),
        blockBytes_getElem]

theorem keystream_getElem (s : State) {n j : Nat} (hj : j < (keystream s n).length) :
    (keystream s n)[j] = keystreamByte s j := by
  have hblocks : j < 16 * ceilDiv n 16 := by rwa [keystream_length] at hj
  exact List.getElem_eq_iff _ |>.2 (getElem?_flatMap_blockBytes _ hblocks)

/-- Byte j of what is encrypted is XORed with byte j of the keystream. -/
theorem ctrXor_getElem (s : State) (bs : List Byte) {j : Nat} (hj : j < (ctrXor s bs).length) :
    (ctrXor s bs)[j] = (bs[j]'(by rwa [ctrXor_length] at hj)) ^^^ keystreamByte s j := by
  simp only [ctrXor, List.getElem_zipWith, keystream_getElem]

/-! ### CTR_CRYPT (R133) -/

/-- CTR_CRYPT has no length to check: its two errors, the slice's before the locks'. -/
theorem commandError_ctrCrypt (start : BitVec 8) (len : BitVec 9) (s : State) :
    commandError (.ctrCrypt start len) s =
      if 256 < start.toNat + len.toNat then some 6#8 else if ¬Provisioned s then some 1#8 else none := by
  simp only [commandError, rangeError, configError, lengthError, decide_eq_true_eq, Bool.false_eq_true, if_false]

/-- The end of a CTR_CRYPT without an error: what its body stores, and its reports. -/
theorem exec_ctrCrypt {s : State} {start : BitVec 8} {len : BitVec 9} (hslice : start.toNat + len.toNat ≤ 256)
    (hlocks : Provisioned s) : exec (.ctrCrypt start len) s = .next { s with
      status := { lastErr := 0x00#8, lastOp := 0x30#8 }, result := BitVec.ofNat 32 ((len.toNat + 15) / 16),
      mem := (ctrCryptBody start.toNat len.toNat s).2.mem } := by
  have hnone : commandError (.ctrCrypt start len) s = none := by
    rw [commandError_ctrCrypt, if_neg (by omega), if_neg (not_not_intro hlocks)]
  exact exec_of_writesMemory hnone (fun st v e => ctrCryptBody_withReports s st v e _ _) (ctrCryptBody_frame _ _ s)

theorem ctrCryptBody_byte (start : Nat) {len j : Nat} (s : State) (hj : j < len) :
    (ctrCryptBody start len s).2.byte .mpdu (start + j) = s.byte .mpdu (start + j) ^^^ keystreamByte s j := by
  have hin : j < (ctrXor s (s.bytes .mpdu start len)).length := by rwa [ctrXor_length, bytes_length]
  rw [ctrCryptBody, setBytes_byte_inside _ _ _ _ hin, ctrXor_getElem, bytes_getElem]

theorem ctrCryptBody_read_outside (start len : Nat) (s : State) {a : Nat}
    (ha : ¬(0x0300 + start ≤ a ∧ a < 0x0300 + start + len)) :
    (ctrCryptBody start len s).2.mem.read a = s.mem.read a :=
  setBytes_read_outside s .mpdu start _ (by rwa [ctrXor_length, bytes_length])

/-- The encryptor stores nothing a keystream depends on. -/
theorem keystreamByte_of_ctrCrypt {start len : Nat} {s t : State} (hepc : t.epc = s.epc)
    (hmem : t.mem = (ctrCryptBody start len s).2.mem) (j : Nat) : keystreamByte t j = keystreamByte s j := by
  refine keystreamByte_congr hepc (fun a ha => ?_) j
  rw [hmem]
  exact ctrCryptBody_read_outside start len s (by omega)

/-- Settles O42: the IV blocks written out, the two errors in their order, and the body. -/
theorem ctrCryptResult : Obligations.CtrCryptResult := by
  refine ⟨fun s b => ⟨rfl, rfl⟩, fun s start len => ?_⟩
  have herror := commandError_ctrCrypt start len s
  refine ⟨fun hslice => ?_, fun hslice hlocks => ?_, fun hslice hlocks => ?_⟩
  · rw [if_pos hslice] at herror
    exact exec_of_commandError rfl herror
  · rw [if_neg (by omega), if_pos hlocks] at herror
    exact exec_of_commandError rfl herror
  · refine ⟨_, exec_ctrCrypt hslice hlocks, rfl, fun j hj => ?_, fun a ha => ?_⟩
    · exact ctrCryptBody_byte _ s hj
    · exact ctrCryptBody_read_outside _ _ s ha

/-- The body run on what it left: its two XORs with one keystream cancel. -/
theorem ctrCryptBody_twice {start len : Nat} {s t : State} (hmem : t.mem = (ctrCryptBody start len s).2.mem)
    (hepc : t.epc = s.epc) (a : Nat) : (ctrCryptBody start len t).2.mem.read a = s.mem.read a := by
  by_cases hin : 0x0300 + start ≤ a ∧ a < 0x0300 + start + len
  · obtain ⟨j, rfl⟩ : ∃ j, a = 0x0300 + (start + j) := ⟨a - (0x0300 + start), by omega⟩
    have hj : j < len := by omega
    have hfirst : t.byte .mpdu (start + j) = s.byte .mpdu (start + j) ^^^ keystreamByte s j := by
      rw [State.byte, hmem]
      exact ctrCryptBody_byte start s hj
    have hsecond := ctrCryptBody_byte start t hj
    rw [keystreamByte_of_ctrCrypt hepc hmem, hfirst, BitVec.xor_assoc, BitVec.xor_self, BitVec.xor_zero] at hsecond
    exact hsecond
  · rw [ctrCryptBody_read_outside start len t hin, hmem, ctrCryptBody_read_outside start len s hin]

/-- What a second CTR_CRYPT needs of the first: the bytes it stored, and the EPC and the locks it kept. -/
theorem of_exec_ctrCrypt {s t : State} {start : BitVec 8} {len : BitVec 9} (hslice : start.toNat + len.toNat ≤ 256)
    (hlocks : Provisioned s) (h : exec (.ctrCrypt start len) s = .next t) :
    t.mem = (ctrCryptBody start.toNat len.toNat s).2.mem ∧ t.epc = s.epc ∧ t.ctrl = s.ctrl := by
  rw [exec_ctrCrypt hslice hlocks] at h
  obtain rfl := Host.Outcome.next.inj h
  exact ⟨rfl, rfl, rfl⟩

/-- Settles O43: the locks and the EPC are kept, so the second command XORs the first one's keystream. -/
theorem ctrCryptTwiceRestores : Obligations.CtrCryptTwiceRestores := by
  intro s t u start len hslice hlocks hfirst hsecond a
  obtain ⟨hstored, hepc, hctrl⟩ := of_exec_ctrCrypt hslice hlocks hfirst
  have hstillLocked : Provisioned t := by rwa [Provisioned, hctrl]
  obtain ⟨hrestored, -, -⟩ := of_exec_ctrCrypt hslice hstillLocked hsecond
  rw [hrestored]
  exact ctrCryptBody_twice hstored hepc a

/-! ### The parts of the MPDU (R128, R129, R131, R132) -/

/-- The header as a number: ADDR_LONG in bit 5, the MPF flag in bit 1. -/
theorem toNat_macHeader (s : State) (mpf : BitVec 1) :
    (macHeader s (mpf == 1#1)).toNat = 32 * s.ctrl.addrLong.toNat + 2 * mpf.toNat := by
  unfold macHeader
  rcases BitVec.eq_zero_or_eq_one mpf with rfl | rfl <;> cases s.ctrl.addrLong <;> rfl

theorem macAddr_of_long {s : State} (h : s.ctrl.addrLong = true) : macAddr s = s.bytes .eui64 0 8 := if_pos h

theorem macAddr_of_override {s : State} (h : s.ctrl.addrLong = false) (hovr : s.ctrl.shortOvrEn = true) :
    macAddr s = [s.shortAddrOvr.extractLsb' 8 8, s.shortAddrOvr.extractLsb' 0 8] := by
  rw [macAddr, h, shortAddr, hovr]
  rfl

theorem macAddr_of_short {s : State} (h : s.ctrl.addrLong = false) (hovr : s.ctrl.shortOvrEn = false) :
    macAddr s = [s.byte .eui64 6, s.byte .eui64 7] := by
  rw [macAddr, h, shortAddr, hovr]
  rfl

/-- What is encrypted, byte by byte: after an MPF byte the payload stands one place on. -/
theorem mpduPlain_getElem (s : State) {len : Nat} (mpf : Bool) (mpfv : Byte) {j : Nat}
    (hj : j < (mpduPlain s len mpf mpfv).length) : (mpduPlain s len mpf mpfv)[j] = plainByte s mpf mpfv j := by
  cases mpf with
  | false => simp [mpduPlain, plainByte]
  | true =>
    cases j with
    | zero => rfl
    | succ j => simp [mpduPlain, plainByte]

/-- The number of MPF bytes is the operand bit itself. -/
theorem mpfBytes_eq_toNat (mpf : BitVec 1) : (if mpf == 1#1 then 1 else 0) = mpf.toNat := by
  rcases BitVec.eq_zero_or_eq_one mpf with rfl | rfl <;> rfl

/-- MpduLength by the parts: header, address, counter, ciphertext and MIC. -/
theorem mpduLength_eq_parts (s : State) (len : Nat) (mpf : BitVec 1) : mpduLength s len (mpf == 1#1) =
    4 + (macAddr s).length + (mpf.toNat + len) + 4 := by
  rw [macAddr_length, mpduLength, mpfBytes_eq_toNat]
  split <;> omega

section
variable (s : State) (len : Nat) (mpf : Bool) (mpfv : Byte)

/-- The MPDU as its five parts, in order. -/
theorem mpduBytes_eq_parts : mpduBytes s len mpf mpfv =
    [macHeader s mpf] ++ (macAddr s ++ (bytesBE 3 s.epc ++ (ctrXor s (mpduPlain s len mpf mpfv) ++
      (blockBytes (mpduTag s len mpf mpfv)).take 4))) := by
  simp only [mpduBytes, mpduUnsigned, mpduPrefix, List.append_assoc, List.cons_append, List.nil_append]

theorem mpduUnsigned_length : (mpduUnsigned s len mpf mpfv).length = mpduLength s len mpf - 4 := by
  rw [← mpduBytes_length s len mpf mpfv, mpduBytes, List.length_append, blockBytes_take_length, Nat.add_sub_cancel]

theorem mpduBytes_getElem?_header : (mpduBytes s len mpf mpfv)[0]? = some (macHeader s mpf) := rfl

theorem mpduBytes_getElem?_addr {i : Nat} (hi : i < (macAddr s).length) :
    (mpduBytes s len mpf mpfv)[1 + i]? = (macAddr s)[i]? := by
  rw [mpduBytes_eq_parts, List.getElem?_append_right (by simp), List.length_singleton, Nat.add_sub_cancel_left,
    List.getElem?_append_left hi]

theorem mpduBytes_getElem?_counter {i : Nat} (hi : i < 3) :
    (mpduBytes s len mpf mpfv)[1 + (macAddr s).length + i]? = (bytesBE 3 s.epc)[i]? := by
  rw [Nat.add_assoc, mpduBytes_eq_parts, List.getElem?_append_right (by simp), List.length_singleton,
    Nat.add_sub_cancel_left, List.getElem?_append_right (by simp), Nat.add_sub_cancel_left,
    List.getElem?_append_left (by simpa using hi)]

theorem mpduBytes_getElem?_cipher {j : Nat} (hj : j < (mpduPlain s len mpf mpfv).length) :
    (mpduBytes s len mpf mpfv)[4 + (macAddr s).length + j]? =
      some (plainByte s mpf mpfv j ^^^ keystreamByte s j) := by
  have hin : j < (ctrXor s (mpduPlain s len mpf mpfv)).length := by rwa [ctrXor_length]
  rw [show 4 + (macAddr s).length + j = 1 + ((macAddr s).length + (3 + j)) by omega, mpduBytes_eq_parts,
    List.getElem?_append_right (by simp), List.length_singleton, Nat.add_sub_cancel_left,
    List.getElem?_append_right (by simp), Nat.add_sub_cancel_left, List.getElem?_append_right (by simp),
    bytesBE_length, Nat.add_sub_cancel_left, List.getElem?_append_left hin, List.getElem?_eq_getElem hin,
    ctrXor_getElem, mpduPlain_getElem]

theorem mpduBytes_getElem?_mic {i : Nat} (hi : i < 4) :
    (mpduBytes s len mpf mpfv)[(mpduUnsigned s len mpf mpfv).length + i]? =
      some (blockByte (mpduTag s len mpf mpfv) i) := by
  rw [mpduBytes, List.getElem?_append_right (by simp), Nat.add_sub_cancel_left, List.getElem?_take_of_lt hi,
    List.getElem?_eq_getElem (by rw [blockBytes_length]; omega), blockBytes_getElem]

end

/-! ### What MAC_ENCODE stores (R134) -/

/-- The state once the MPDU, its tag and the subkeys are stored: the memory that MAC_ENCODE leaves. -/
def storeMpdu (s : State) (mpdu : List Byte) (tag : Block) : State :=
  writeSubkeys ((s.setBytes .mpdu 0 mpdu).setBlock .tag tag)

section
variable (s : State) {mpdu : List Byte} (tag : Block)

theorem storeMpdu_byte_mpdu {i : Nat} {v : Byte} (h : mpdu[i]? = some v) : (storeMpdu s mpdu tag).byte .mpdu i = v := by
  obtain ⟨hi, rfl⟩ := List.getElem?_eq_some_iff.1 h
  have hstored := setBytes_byte_inside s .mpdu 0 mpdu hi
  rw [Nat.zero_add] at hstored
  rw [← hstored]
  refine (writeSubkeys_read_outside _ ?_).trans (setBlock_read_outside _ .tag _ ?_) <;>
    simp only [ByteRegion.base] <;> omega

theorem storeMpdu_byte_tag {i : Nat} (hi : i < 16) : (storeMpdu s mpdu tag).byte .tag i = blockByte tag i := by
  refine (writeSubkeys_read_outside _ ?_).trans (setBlock_byte _ .tag _ hi)
  simp only [ByteRegion.base]
  omega

theorem storeMpdu_block_tag : (storeMpdu s mpdu tag).block .tag = tag := by
  rw [State.block, ← blockOfBytes_blockBytes tag]
  refine congrArg blockOfBytes (List.map_congr_left fun i hi => ?_)
  rw [Nat.zero_add, storeMpdu_byte_tag s _ (List.mem_range.1 hi), blockOfBytes_blockBytes]

section
variable (hfit : mpdu.length ≤ 256)
include hfit

/-- KEY is read for the subkeys after the other stores, which leave it alone. -/
theorem block_key_before_subkeys : ((s.setBytes .mpdu 0 mpdu).setBlock .tag tag).block .key = s.block .key := by
  rw [setBlock_block_other _ _ (by decide) rfl rfl,
    setBytes_block_other _ (by decide) ((Nat.zero_add _).trans_le hfit) rfl]

theorem storeMpdu_byte_k1 {i : Nat} (hi : i < 16) :
    (storeMpdu s mpdu tag).byte .k1 i = blockByte (subkey1 (s.block .key)) i := by
  rw [storeMpdu, writeSubkeys_byte_k1 _ hi, block_key_before_subkeys s tag hfit]

theorem storeMpdu_byte_k2 {i : Nat} (hi : i < 16) :
    (storeMpdu s mpdu tag).byte .k2 i = blockByte (subkey2 (s.block .key)) i := by
  rw [storeMpdu, writeSubkeys_byte_k2 _ hi, block_key_before_subkeys s tag hfit]

end

theorem storeMpdu_read_outside {a : Nat} (hblocks : ¬(0x0140 ≤ a ∧ a ≤ 0x016F))
    (hmpdu : ¬(0x0300 ≤ a ∧ a < 0x0300 + mpdu.length)) : (storeMpdu s mpdu tag).mem.read a = s.mem.read a := by
  refine (writeSubkeys_read_outside _ (by omega)).trans
    ((setBlock_read_outside _ .tag _ ?_).trans (setBytes_read_outside s .mpdu 0 mpdu hmpdu))
  simp only [ByteRegion.base]
  omega

end

/-- The memory of `t` is what MAC_ENCODE leaves when it runs in `s`. -/
def MpduStored (s : State) (len : Nat) (mpf : Bool) (mpfv : Byte) (t : State) : Prop :=
  t.mem = (storeMpdu s (mpduBytes s len mpf mpfv) (mpduTag s len mpf mpfv)).mem

/-- MAC_ENCODE's own body leaves it; LAST_OP is among the reports its stores do not depend on. -/
theorem macEncodeBody_mpduStored (len : Nat) (mpf : Bool) (mpfv : Byte) (s : State) (op : Byte) :
    MpduStored s len mpf mpfv (macEncodeBody len mpf mpfv (s.setLastOp op)).2 := by
  have hreports : s.setLastOp op = s.withReports { s.status with lastOp := op } s.result s.events := rfl
  rw [hreports, macEncodeBody_passesReports len mpf mpfv s]
  rfl

namespace MpduStored

variable {s t : State} {len : Nat} {mpf : Bool} {mpfv : Byte} (h : MpduStored s len mpf mpfv t)
include h

theorem byte_eq (g : ByteRegion) (i : Nat) :
    t.byte g i = (storeMpdu s (mpduBytes s len mpf mpfv) (mpduTag s len mpf mpfv)).byte g i :=
  congrArg (Memory.read · (g.base + i)) h

theorem byte_mpdu {i : Nat} {v : Byte} (hv : (mpduBytes s len mpf mpfv)[i]? = some v) : t.byte .mpdu i = v :=
  (h.byte_eq .mpdu i).trans (storeMpdu_byte_mpdu s _ hv)

theorem byte_addr {i : Nat} {v : Byte} (hv : (macAddr s)[i]? = some v) : t.byte .mpdu (1 + i) = v := by
  obtain ⟨hi, -⟩ := List.getElem?_eq_some_iff.1 hv
  exact h.byte_mpdu ((mpduBytes_getElem?_addr _ _ _ _ hi).trans hv)

theorem bytes_shortAddr {x y : Byte} (hpair : macAddr s = [x, y]) : t.byte .mpdu 1 = x ∧ t.byte .mpdu 2 = y := by
  have haddr {i : Nat} {v : Byte} := h.byte_addr (i := i) (v := v)
  rw [hpair] at haddr
  exact ⟨haddr (i := 0) rfl, haddr (i := 1) rfl⟩

theorem byte_counter {i : Nat} {v : Byte} (hv : (bytesBE 3 s.epc)[i]? = some v) :
    t.byte .mpdu (1 + (macAddr s).length + i) = v := by
  obtain ⟨hi, -⟩ := List.getElem?_eq_some_iff.1 hv
  rw [bytesBE_length] at hi
  exact h.byte_mpdu ((mpduBytes_getElem?_counter _ _ _ _ hi).trans hv)

theorem byte_cipher {j : Nat} (hj : j < (mpduPlain s len mpf mpfv).length) :
    t.byte .mpdu (4 + (macAddr s).length + j) = plainByte s mpf mpfv j ^^^ keystreamByte s j :=
  h.byte_mpdu (mpduBytes_getElem?_cipher _ _ _ _ hj)

/-- The MIC is the first four bytes of TAG. -/
theorem byte_mic {i : Nat} (hi : i < 4) :
    t.byte .mpdu ((mpduUnsigned s len mpf mpfv).length + i) = t.byte .tag i := by
  rw [h.byte_eq .tag, storeMpdu_byte_tag _ _ (by omega)]
  exact h.byte_mpdu (mpduBytes_getElem?_mic _ _ _ _ hi)

/-- TAG authenticates what stands in MPDU up to the MIC. -/
theorem block_tag : t.block .tag = cmac (s.block .key)
    (cmacIv s ++ (List.range (mpduUnsigned s len mpf mpfv).length).map fun i => t.byte .mpdu i) := by
  have hstored : t.block .tag = mpduTag s len mpf mpfv :=
    (congrArg blockOfBytes (List.map_congr_left fun _ _ => h.byte_eq .tag _)).trans (storeMpdu_block_tag s _)
  rw [hstored, mpduTag]
  refine congrArg (fun data => cmac (s.block .key) (cmacIv s ++ data)) (List.ext_getElem (by simp) fun i hi _ => ?_)
  rw [List.getElem_map, List.getElem_range, h.byte_mpdu]
  rw [mpduBytes, List.getElem?_append_left hi, List.getElem?_eq_getElem hi]

theorem byte_k1 (hfit : mpduLength s len mpf ≤ 256) {i : Nat} (hi : i < 16) :
    t.byte .k1 i = blockByte (subkey1 (s.block .key)) i :=
  (h.byte_eq .k1 i).trans (storeMpdu_byte_k1 s _ ((mpduBytes_length _ _ _ _).trans_le hfit) hi)

theorem byte_k2 (hfit : mpduLength s len mpf ≤ 256) {i : Nat} (hi : i < 16) :
    t.byte .k2 i = blockByte (subkey2 (s.block .key)) i :=
  (h.byte_eq .k2 i).trans (storeMpdu_byte_k2 s _ ((mpduBytes_length _ _ _ _).trans_le hfit) hi)

theorem read_outside {a : Nat} (hblocks : ¬(0x0140 ≤ a ∧ a ≤ 0x016F))
    (hmpdu : ¬(0x0300 ≤ a ∧ a < 0x0300 + mpduLength s len mpf)) : t.mem.read a = s.mem.read a := by
  rw [← mpduBytes_length s len mpf mpfv] at hmpdu
  exact (congrArg (Memory.read · a) h).trans (storeMpdu_read_outside s _ hblocks hmpdu)

end MpduStored

/-! ### MAC_ENCODE (R134) -/

/-- The three errors of MAC_ENCODE, in order. -/
theorem commandError_macEncode (len : BitVec 9) (mpf : BitVec 1) (mpfv : Byte) (s : State) :
    commandError (.macEncode len mpf mpfv) s =
      if mpf = 0#1 ∧ mpfv ≠ 0#8 then some 6#8 else if ¬Provisioned s then some 1#8
      else if 255 < mpduLength s len.toNat (mpf == 1#1) then some 2#8 else none := by
  simp only [commandError, rangeError, configError, lengthError, decide_eq_true_eq]
  rfl

/-- The end of a MAC_ENCODE without an error: the counter's step, MPDU_LEN, the stores and the reports. -/
theorem exec_macEncode {len : BitVec 9} {mpf : BitVec 1} {mpfv : Byte} {s : State}
    (hnone : commandError (.macEncode len mpf mpfv) s = none) :
    ∃ t, exec (.macEncode len mpf mpfv) s = .next t ∧
      t = { epcIncrement s with
        status := { lastErr := 0x00#8, lastOp := 0x31#8 },
        result := BitVec.ofNat 32 (mpduLength s len.toNat (mpf == 1#1)),
        mpduLen := BitVec.ofNat 9 (mpduLength s len.toNat (mpf == 1#1)), mem := t.mem } ∧
      MpduStored s len.toNat (mpf == 1#1) mpfv t := by
  have hexec : exec (.macEncode len mpf mpfv) s =
      .next ((macEncodeBody len.toNat (mpf == 1#1) mpfv (s.setLastOp 0x31#8)).2.complete
        (BitVec.ofNat 32 (mpduLength s len.toNat (mpf == 1#1)))) :=
    exec_of_check_none (commandCheck_eq_none hnone _)
  have hframe := macEncodeBody_frame len.toNat (mpf == 1#1) mpfv (s.setLastOp 0x31#8)
  have hstored := macEncodeBody_mpduStored len.toNat (mpf == 1#1) mpfv s 0x31#8
  generalize (macEncodeBody len.toNat (mpf == 1#1) mpfv (s.setLastOp 0x31#8)).2 = u at hexec hframe hstored
  exact ⟨_, hexec, congrArg (State.complete · _) hframe, hstored⟩

/-- Settles O44: the three errors in their order, then the parts of the MPDU where they are stored. -/
theorem macEncodeBuildsMpdu : Obligations.MacEncodeBuildsMpdu := by
  intro s len mpf mpfv a clen be m
  have haddr : (macAddr s).length = a := macAddr_length s
  have hlength : mpduLength s len.toNat (mpf == 1#1) = m := by
    rw [mpduLength_eq_parts, haddr]
  have hplain : (mpduPlain s len.toNat (mpf == 1#1) mpfv).length = clen := by
    rw [mpduPlain_length, mpfBytes_eq_toNat]
  have hunsigned : (mpduUnsigned s len.toNat (mpf == 1#1) mpfv).length = m - 4 := by
    rw [mpduUnsigned_length, hlength]
  have herror := commandError_macEncode len mpf mpfv s
  rw [hlength] at herror
  refine ⟨fun hflag hvalue => ?_, fun hflag hlocks => ?_, fun hflag hlocks hlong => ?_, fun hflag hlocks hfit => ?_⟩
  · rw [if_pos ⟨hflag, hvalue⟩] at herror
    exact exec_of_commandError rfl herror
  all_goals rw [if_neg fun ⟨hzero, hvalue⟩ => hvalue (hflag hzero)] at herror
  · rw [if_pos hlocks] at herror
    exact exec_of_commandError rfl herror
  · rw [if_neg (not_not_intro hlocks), if_pos hlong] at herror
    exact exec_of_commandError rfl herror
  · rw [if_neg (not_not_intro hlocks), if_neg (by omega)] at herror
    obtain ⟨t, hexec, hframe, hstored⟩ := exec_macEncode herror
    rw [hlength] at hframe
    have hcounter {i : Nat} {v : Byte} (hv : (bytesBE 3 s.epc)[i]? = some v) : t.byte .mpdu (1 + a + i) = v := by
      rw [← haddr]
      exact hstored.byte_counter hv
    refine ⟨t, hexec, hframe, ?_, fun hlong i hi => ?_, fun hshort hovr => ?_, fun hshort hovr => ?_, ?_, ?_, ?_,
      fun j hj => ?_, ?_, fun i hi => ?_, fun i hi => ⟨?_, ?_⟩, fun x hblocks hx => ?_⟩
    · rw [hstored.byte_mpdu (mpduBytes_getElem?_header _ _ _ _), toNat_macHeader]
    · refine hstored.byte_addr ?_
      rw [macAddr_of_long hlong, List.getElem?_eq_getElem (by rwa [bytes_length]), bytes_getElem, Nat.zero_add]
    · exact hstored.bytes_shortAddr (macAddr_of_override hshort hovr)
    · exact hstored.bytes_shortAddr (macAddr_of_short hshort hovr)
    · rw [show be - 3 = 1 + a + 0 by omega]
      exact hcounter rfl
    · rw [show be - 2 = 1 + a + 1 by omega]
      exact hcounter rfl
    · rw [show be - 1 = 1 + a + 2 by omega]
      exact hcounter rfl
    · rw [← hplain] at hj
      rw [← hstored.byte_cipher hj, haddr]
    · rw [hstored.block_tag, hunsigned]
    · rw [← hunsigned]
      exact hstored.byte_mic hi
    · exact hstored.byte_k1 (by omega) hi
    · exact hstored.byte_k2 (by omega) hi
    · rw [← hlength] at hx
      exact hstored.read_outside hblocks hx

end Sys2Proof.Machine
end

section
/-! PHY framing and whitening (44_phy_coding.md R136 to R142): the burst count, the two CRCs, the buffer that
PHY_ASSEMBLE builds, and WHITEN run once and twice. -/

namespace Sys2Proof.Machine

/-! ### The end of a command without an error (30_encoding.md R97) -/

/-- A command without an error whose body depends on no report (10_state.md R57): what its body leaves, and its
reports. -/
theorem exec_of_quietBody {i : Instr} {s : State} (hnone : commandError i s = none)
    (hquiet : ∀ st v e, commandBody i (s.withReports st v e) =
      ((commandBody i s).1, (commandBody i s).2.withReports st v e)) :
    exec i s = .next ((commandBody i s).2.withReports
      { lastErr := 0x00#8, lastOp := i.mnemonic.opcode } (commandBody i s).1 s.events) := by
  have hop : s.setLastOp i.mnemonic.opcode =
      s.withReports { s.status with lastOp := i.mnemonic.opcode } s.result s.events := rfl
  rw [exec_of_check_none (commandCheck_eq_none hnone _), hop, hquiet]
  rfl

/-- A command whose body writes nothing: its RESULT, and its reports. -/
theorem exec_of_writesNothing {i : Instr} {s : State} {v : Word} (hnone : commandError i s = none)
    (hbody : ∀ st w e, commandBody i (s.withReports st w e) = (v, s.withReports st w e)) :
    exec i s = .next { s with status := { lastErr := 0x00#8, lastOp := i.mnemonic.opcode }, result := v } := by
  have hhere : commandBody i s = (v, s) := hbody s.status s.result s.events
  rw [exec_of_quietBody hnone fun st w e => by rw [hbody, hhere], hhere]
  rfl

theorem commandError_eq_none {i : Instr} {s : State} (hrange : rangeError s i = false)
    (hconfig : configError s i = false) (hlength : lengthError s i = false) : commandError i s = none := by
  simp [commandError, hrange, hconfig, hlength]

/-- A command whose only error is the length ends in PAYLOAD_TOO_LONG. -/
theorem exec_of_lengthError {i : Instr} {s : State} (hF0 : clearsF0 i = false) (hrange : rangeError s i = false)
    (hconfig : configError s i = false) (hlength : lengthError s i = true) :
    exec i s = .next (s.failed i.mnemonic.opcode 2#8) :=
  exec_of_commandError hF0 (by simp [commandError, hrange, hconfig, hlength])

/-! ### NUM_BURSTS (R136, R137) -/

theorem numBurstsOf_eq {m : Nat} (hm : m ≤ 255) : numBurstsOf m = if m < 20 then 24 else m + 4 := by
  rw [numBurstsOf, if_neg (by omega)]

/-- Settles O45, by the two ends of the command. -/
theorem numBurstsResult : Obligations.NumBurstsResult := by
  intro s n
  refine ⟨fun hlong => exec_of_lengthError rfl rfl rfl (decide_eq_true hlong), fun hn => ?_⟩
  have hnone : commandError (.numBursts n) s = none := commandError_eq_none rfl rfl (decide_eq_false (by omega))
  have hcount : BitVec.ofNat 32 (numBurstsOf n.toNat) = if n.toNat < 20 then 24 else BitVec.ofNat 32 (n.toNat + 4) :=
    (congrArg _ (numBurstsOf_eq hn)).trans (apply_ite (BitVec.ofNat 32) _ _ _)
  rw [← hcount]
  exact exec_of_writesNothing hnone fun _ _ _ => rfl

/-! ### CRC8 and CRC2 (R138, R139, R154, R155) -/

/-- A CRC step as a number: the bit shifted out and the input bit decide on the polynomial. -/
theorem toNat_crcStep {w : Nat} (reg poly : BitVec (w + 1)) (bit : Bool) :
    (if reg.getLsbD w ^^ bit then (reg <<< 1) ^^^ poly else reg <<< 1).toNat =
      (2 * reg.toNat % 2 ^ (w + 1)) ^^^ (if (decide (2 ^ w ≤ reg.toNat) ^^ bit) = true then poly.toNat else 0) := by
  have htop : reg.getLsbD w = decide (2 ^ w ≤ reg.toNat) := BitVec.msb_eq_decide reg
  have hshift : (reg <<< 1).toNat = 2 * reg.toNat % 2 ^ (w + 1) := by
    rw [BitVec.toNat_shiftLeft, Nat.shiftLeft_eq, pow_one, Nat.mul_comm]
  rw [htop]
  split
  · rw [BitVec.toNat_xor, hshift]
  · rw [hshift, Nat.xor_zero]

/-- One more bit of a CRC-8 is the last iteration of its loop. -/
theorem crc8Of_succ (buf : Nat → Byte) (start n : Nat) :
    crc8Of buf start (n + 1) = crc8Step (crc8Of buf start n) (bitRead buf (start + n)) :=
  forRange_succ (Nat.zero_le n) _ _

theorem crc2Of_succ (bit : Nat → Bool) (start n : Nat) :
    crc2Of bit start (n + 1) = crc2Step (crc2Of bit start n) (bit (start + n)) :=
  forRange_succ (Nat.zero_le n) _ _

/-- Settles O46: the two procedures bit by bit, and commands that write nothing. -/
theorem crcCommandResults : Obligations.CrcCommandResults := by
  refine ⟨fun buf st n => ⟨rfl, ?_⟩, fun bit st n => ⟨rfl, ?_⟩, fun s bstart blen => ?_⟩
  · rw [crc8Of_succ]
    exact toNat_crcStep (w := 7) _ 0x9B#8 _
  · rw [crc2Of_succ]
    exact toNat_crcStep (w := 1) _ 0x3#2 _
  · refine ⟨fun hpast => ⟨exec_of_rangeError rfl (decide_eq_true hpast),
      exec_of_rangeError rfl (decide_eq_true hpast)⟩, fun hin => ?_⟩
    have hrange : decide (2072 < bstart.toNat + blen.toNat) = false := decide_eq_false (by omega)
    exact ⟨exec_of_writesNothing (commandError_eq_none hrange rfl rfl) fun _ _ _ => rfl,
      exec_of_writesNothing (commandError_eq_none hrange rfl rfl) fun _ _ _ => rfl⟩

/-! ### The PHY buffer (R140) -/

/-- PHYBUF[0..nb-1] as PHY_ASSEMBLE leaves it. -/
def phyBuffer (m : Nat) (mmode : BitVec 2) (mpdu : List Byte) : List Byte :=
  let body := phyBody m mmode mpdu
  headerCrc (payloadCrc m body) body :: payloadCrc m body :: body

section
variable {m : Nat} (mmode : BitVec 2) {mpdu : List Byte}

theorem phyBuffer_length (hm : m ≤ 255) (hlen : mpdu.length = m) : (phyBuffer m mmode mpdu).length = numBurstsOf m :=
  phyBody_length m hm mmode hlen

theorem phyBuffer_getElem?_mpdu (hlen : mpdu.length = m) {i : Nat} (hi : i < m) :
    (phyBuffer m mmode mpdu)[3 + i]? = mpdu[i]? := by
  rw [Nat.add_comm]
  simp only [phyBuffer, phyBody, List.cons_append, List.getElem?_cons_succ]
  rw [List.append_assoc, List.getElem?_append_left (by omega)]

/-- Up to 20 bytes, zeros follow the MPDU. -/
theorem phyBuffer_getElem?_stuffing (hlen : mpdu.length = m) {i : Nat} (hlow : 3 + m ≤ i) (hhigh : i < 23) :
    (phyBuffer m mmode mpdu)[i]? = some 0#8 := by
  obtain ⟨k, rfl⟩ := Nat.exists_eq_add_of_le hlow
  rw [show 3 + m + k = m + k + 3 by omega]
  simp only [phyBuffer, phyBody, List.cons_append, List.getElem?_cons_succ]
  rw [List.append_assoc, List.getElem?_append_right (by omega),
    List.getElem?_append_left (by rw [List.length_replicate]; omega), List.getElem?_replicate, if_pos (by omega)]

theorem phyBuffer_getElem?_last (hm : m ≤ 255) (hlen : mpdu.length = m) :
    (phyBuffer m mmode mpdu)[numBurstsOf m - 1]? = some (mmode ++ 0#6) := by
  rw [← phyBuffer_length mmode hm hlen, ← List.getLast?_eq_getElem?, phyBuffer, phyBody]
  simp only [List.getLast?_cons, List.getLast?_concat, Option.getD_some]

end

/-- A CRC-8 over a memory that holds a list of bytes from byte `k` on. -/
theorem crc8Of_listBuf {buf : Nat → Byte} {k : Nat} {bs : List Byte}
    (hbuf : ∀ i < bs.length, buf (k + i) = listBuf bs i) {start n : Nat} (hfit : start + n ≤ 8 * bs.length) :
    crc8Of buf (8 * k + start) n = crc8Of (listBuf bs) start n := by
  refine forRange_congr _ fun j reg _ hj => congrArg (crc8Step reg) ?_
  rw [bitRead, bitRead, show (8 * k + start + j) / 8 = k + (start + j) / 8 by omega,
    show (8 * k + start + j) % 8 = (start + j) % 8 by omega, hbuf _ (by omega)]

/-- The end of a PHY_ASSEMBLE without an error. -/
theorem exec_phyAssemble {s : State} {mlen : BitVec 9} (mmode : BitVec 2) (hm : mlen.toNat ≤ 255) :
    exec (.phyAssemble mlen mmode) s = .next
      { s with
        status := { lastErr := 0x00#8, lastOp := 0x41#8 }, result := BitVec.ofNat 32 (numBurstsOf mlen.toNat),
        numBursts := BitVec.ofNat 9 (numBurstsOf mlen.toNat),
        crcHdr := (phyAssembleBody mlen.toNat mmode s).2.crcHdr,
        crcPay := (phyAssembleBody mlen.toNat mmode s).2.crcPay,
        mem := (phyAssembleBody mlen.toNat mmode s).2.mem } := by
  have hnone : commandError (.phyAssemble mlen mmode) s = none :=
    commandError_eq_none rfl rfl (decide_eq_false (by omega))
  rw [exec_of_quietBody hnone fun st v e => phyAssembleBody_withReports s st v e _ _, commandBody,
    phyAssembleBody_frame]
  rfl

/-- A stored byte of the PHY buffer. -/
theorem byte_of_phyAssembleBody {m : Nat} {mmode : BitVec 2} {s t : State}
    (hmem : t.mem = (phyAssembleBody m mmode s).2.mem) {i : Nat} {v : Byte}
    (hv : (phyBuffer m mmode (s.bytes .mpdu 0 m))[i]? = some v) : t.byte .phybuf i = v := by
  obtain ⟨hi, rfl⟩ := List.getElem?_eq_some_iff.1 hv
  rw [State.byte, hmem, ← setBytes_byte_inside s .phybuf 0 _ hi, Nat.zero_add]
  rfl

/-- The bytes from `k` on of a stored PHY buffer, as a memory of their own. -/
theorem byte_eq_listBuf_drop {m : Nat} {mmode : BitVec 2} {s t : State}
    (hmem : t.mem = (phyAssembleBody m mmode s).2.mem) {k : Nat} {bs : List Byte}
    (hdrop : (phyBuffer m mmode (s.bytes .mpdu 0 m)).drop k = bs) :
    ∀ i < bs.length, t.byte .phybuf (k + i) = listBuf bs i := by
  intro i hi
  refine byte_of_phyAssembleBody hmem ?_
  rw [← List.getElem?_drop, hdrop, listBuf, List.getD_eq_getElem _ _ hi, List.getElem?_eq_getElem hi]

/-- The two CRCs as read from where they are stored. -/
theorem crcs_of_phyAssembleBody {m : Nat} {mmode : BitVec 2} {s t : State} (hm : m ≤ 255)
    (hmem : t.mem = (phyAssembleBody m mmode s).2.mem) :
    t.byte .phybuf 1 = crc8Of (t.byte .phybuf) 24 (8 * m + 2) ∧ t.byte .phybuf 0 = crc8Of (t.byte .phybuf) 8 16 := by
  have hbody := phyBody_length m hm mmode (bytes_length s .mpdu 0 m)
  have hcount : m + 4 ≤ numBurstsOf m := by
    rw [numBurstsOf_eq hm]
    split <;> omega
  constructor
  · rw [show 24 = 8 * 2 + 8 from rfl, crc8Of_listBuf (byte_eq_listBuf_drop hmem rfl) (by
      simp only [phyBuffer, List.drop_succ_cons, List.drop_zero]
      omega)]
    exact byte_of_phyAssembleBody hmem rfl
  · rw [show 8 = 8 * 1 + 0 from rfl, crc8Of_listBuf (byte_eq_listBuf_drop hmem rfl) (by
      simp only [phyBuffer, List.drop_succ_cons, List.drop_zero, List.length_cons]
      omega)]
    exact byte_of_phyAssembleBody hmem rfl

/-- Settles O47: the bytes of `phyBuffer` where they are stored, and the two CRCs as read from there. -/
theorem phyAssembleResult : Obligations.PhyAssembleResult := by
  intro s mlen mmode m nb
  refine ⟨fun hlong => exec_of_lengthError rfl rfl rfl (decide_eq_true hlong), fun hm => ?_⟩
  have hnb : numBurstsOf m = nb := numBurstsOf_eq hm
  have hlen : (s.bytes .mpdu 0 m).length = m := bytes_length s .mpdu 0 m
  obtain ⟨t, hexec, hmem, hframe⟩ : ∃ t, exec (.phyAssemble mlen mmode) s = .next t ∧
      t.mem = (phyAssembleBody m mmode s).2.mem ∧
      t = { s with
        status := { lastErr := 0x00#8, lastOp := 0x41#8 }, result := BitVec.ofNat 32 (numBurstsOf m),
        numBursts := BitVec.ofNat 9 (numBurstsOf m), crcHdr := (phyAssembleBody m mmode s).2.crcHdr,
        crcPay := (phyAssembleBody m mmode s).2.crcPay, mem := t.mem } :=
    ⟨_, exec_phyAssemble mmode hm, rfl, rfl⟩
  have hbyte {i : Nat} {v : Byte} := byte_of_phyAssembleBody (i := i) (v := v) hmem
  obtain ⟨hpay, hhdr⟩ := crcs_of_phyAssembleBody hm hmem
  refine ⟨t, hexec, ?_, fun i hi => ?_, ?_, fun i hlow hhigh => ?_, ?_, hpay, hhdr, fun a ha => ?_⟩
  · rw [hbyte (i := 0) rfl, hbyte (i := 1) rfl, ← hnb]
    exact hframe
  · refine hbyte ?_
    rw [phyBuffer_getElem?_mpdu mmode hlen hi, List.getElem?_eq_getElem (by omega), bytes_getElem, Nat.zero_add]
  · rw [hbyte (i := 2) rfl, BitVec.toNat_ofNat, Nat.mod_eq_of_lt (by omega)]
  · have hshort : i < 23 := by
      rw [← hnb, numBurstsOf_eq hm] at hhigh
      split at hhigh <;> omega
    exact hbyte (phyBuffer_getElem?_stuffing mmode hlen hlow hshort)
  · rw [hbyte (hnb ▸ phyBuffer_getElem?_last mmode hm hlen), BitVec.toNat_append, Nat.shiftLeft_eq, Nat.mul_comm]
    exact Nat.or_zero _
  · rw [hmem]
    exact setBytes_read_outside s .phybuf 0 (phyBuffer m mmode (s.bytes .mpdu 0 m))
      (by rwa [phyBuffer_length mmode hm hlen, hnb])

/-! ### The whitening register (R141, R142) -/

/-- One step as a number: the new bit is the XOR of bits 9 and 4. -/
theorem toNat_whitenStep (x : BitVec 16) :
    (whitenStep x).toNat = (2 * x.toNat % 65536) ^^^ ((x.toNat / 512 + x.toNat / 16) % 2) := by
  rw [whitenStep, BitVec.toNat_xor, BitVec.toNat_and, BitVec.toNat_xor, BitVec.toNat_shiftLeft,
    BitVec.toNat_ushiftRight, BitVec.toNat_ushiftRight, Nat.shiftLeft_eq, Nat.shiftRight_eq_div_pow,
    Nat.shiftRight_eq_div_pow, Nat.mul_comm]
  exact congrArg _ ((Nat.and_one_is_mod _).trans Nat.xor_mod_two_eq)

/-- The byte of the whitener that PHYBUF[j] is XORed with. -/
def whitenKey (j : Nat) : Byte := (whitenStep^[8 * (j + 1)] 0x1FF#16).extractLsb' 0 8

/-- Once the first byte has filled the register with the sequence's own bits, 15 steps bring it back. -/
theorem whitenStep_period : Function.IsPeriodicPt whitenStep 15 (whitenStep^[8] 0x1FF#16) := by
  unfold Function.IsPeriodicPt Function.IsFixedPt
  decide

theorem whitenKey_mod (j : Nat) : whitenKey j = whitenKey (j % 15) := by
  have hkey (k : Nat) : whitenKey k = ((whitenStep^[8])^[k] (whitenStep^[8] 0x1FF#16)).extractLsb' 0 8 := by
    rw [whitenKey, Nat.mul_succ, Function.iterate_add_apply, Function.iterate_mul]
  rw [hkey, hkey, (whitenStep_period.iterate 8).iterate_mod_apply]

theorem whitenKey_eq_period (j : Nat) : whitenKey j = whitenPeriod.getD (j % 15) 0 := by
  have hbase : ∀ k < 15, whitenKey k = whitenPeriod.getD k 0 := by decide
  rw [whitenKey_mod, hbase _ (Nat.mod_lt _ (by decide))]

/-! ### WHITEN (R141, R142) -/

/-- The mask of byte `j` of `n`: the last byte keeps its top two bits. -/
def whitenMask (n j : Nat) : Byte := if j = n - 1 then 0xC0#8 else 0xFF#8

theorem whitenBody_byte {n : Nat} (s : State) {j : Nat} (hj : j < n) :
    (whitenBody n s).2.byte .phybuf j = (s.byte .phybuf j ^^^ whitenKey j) &&& whitenMask n j := by
  have hxor (k : Nat) (hk : k < n) :
      (s.setBytes .phybuf 0 (whitenBytes 0x1FF#16 (s.bytes .phybuf 0 n)).1).byte .phybuf k =
        s.byte .phybuf k ^^^ whitenKey k := by
    have hin : k < (s.bytes .phybuf 0 n).length := by rwa [bytes_length]
    have hstored := setBytes_byte_inside s .phybuf 0 (whitenBytes 0x1FF#16 (s.bytes .phybuf 0 n)).1
      (i := k) (by rwa [whitenBytes_length])
    rw [whitenBytes_getElem _ _ k hin, bytes_getElem, Nat.zero_add] at hstored
    rw [hstored]
    rfl
  unfold whitenBody
  by_cases hlast : j = n - 1
  · subst hlast
    rw [whitenMask, if_pos rfl, ← hxor _ hj]
    exact Memory.read_write_same _ _ _
  · rw [whitenMask, if_neg hlast, ← hxor _ hj, show (0xFF#8) = BitVec.allOnes 8 from rfl, BitVec.and_allOnes]
    exact Memory.read_write_other _ _ (by omega)

theorem whitenBody_read_outside {n : Nat} (hn : 1 ≤ n) (s : State) {a : Nat} (ha : ¬(0x0400 ≤ a ∧ a < 0x0400 + n)) :
    (whitenBody n s).2.mem.read a = s.mem.read a := by
  unfold whitenBody
  have hbase : ByteRegion.phybuf.base = 0x0400 := rfl
  refine (Memory.read_write_other _ _ (by omega)).trans (setBytes_read_outside s .phybuf 0 _ ?_)
  rwa [whitenBytes_length, bytes_length]

/-- The end of a WHITEN without an error. -/
theorem exec_whiten {s : State} {n : BitVec 9} (hlow : 1 ≤ n.toNat) (hhigh : n.toNat ≤ 259) :
    exec (.whiten n) s = .next
      { s with
        status := { lastErr := 0x00#8, lastOp := 0x43#8 }, result := 0,
        whitenLfsr := whitenStep^[8 * n.toNat] 0x1FF#16, mem := (whitenBody n.toNat s).2.mem } := by
  have hrange : rangeError s (.whiten n) = false := by
    have hzero : n ≠ 0#9 := by bv_omega
    simp [rangeError, hzero, hhigh]
  have hregister : (whitenBody n.toNat s).2.whitenLfsr = whitenStep^[8 * n.toNat] 0x1FF#16 :=
    (whitenBytes_register _ _).trans (by rw [bytes_length])
  rw [exec_of_quietBody (commandError_eq_none hrange rfl rfl) fun st v e => whitenBody_withReports s st v e _,
    commandBody, whitenBody_frame, hregister]
  rfl

/-- Settles O48: the period of the register, the error, and the bytes of the body. -/
theorem whitenResult : Obligations.WhitenResult := by
  refine ⟨toNat_whitenStep, fun j _ => whitenKey_eq_period j, fun s n => ⟨fun herror => ?_, fun hlow hhigh => ?_⟩⟩
  · have hzero : n.toNat < 1 ↔ n = 0#9 := by bv_omega
    rw [hzero] at herror
    exact exec_of_rangeError rfl (by simpa [rangeError] using herror)
  · exact ⟨_, exec_whiten hlow hhigh, rfl, fun _ hj => whitenBody_byte s hj,
      fun _ ha => whitenBody_read_outside hlow s ha⟩

/-- A byte whitened twice under one mask comes back, if the mask keeps all its ones. -/
theorem whitened_twice {b mask : Byte} (key : Byte) (h : b &&& mask = b) :
    (((b ^^^ key) &&& mask) ^^^ key) &&& mask = b := by
  refine BitVec.eq_of_getLsbD_eq fun i _ => ?_
  have hbit := congrArg (fun x : Byte => x.getLsbD i) h
  simp only [BitVec.getLsbD_and, BitVec.getLsbD_xor] at hbit ⊢
  cases hmask : mask.getLsbD i
  · simpa [hmask] using hbit
  · simp

theorem whitenMask_keeps {n j : Nat} {b : Byte} (h : j = n - 1 → b &&& 0x3F#8 = 0#8) : b &&& whitenMask n j = b := by
  have htop : ∀ x : Byte, x &&& 0x3F#8 = 0#8 → x &&& 0xC0#8 = x := by decide
  rw [whitenMask]
  split
  · exact htop b (h ‹_›)
  · exact BitVec.and_allOnes

/-- Settles O49: both runs XOR the same bytes under the same mask, which keeps what the buffer held before. -/
theorem whitenTwiceRestores : Obligations.WhitenTwiceRestores := by
  intro s t u n hlow hhigh hzero hfirst hsecond a
  rw [exec_whiten hlow hhigh] at hfirst hsecond
  have hmemT : t.mem = (whitenBody n.toNat s).2.mem := by rw [← Host.Outcome.next.inj hfirst]
  have hmemU : u.mem = (whitenBody n.toNat t).2.mem := by rw [← Host.Outcome.next.inj hsecond]
  by_cases hin : 0x0400 ≤ a ∧ a < 0x0400 + n.toNat
  · obtain ⟨j, rfl⟩ : ∃ j, a = 0x0400 + j := ⟨a - 0x0400, by omega⟩
    have hj : j < n.toNat := by omega
    have hbyteT : t.byte .phybuf j = (s.byte .phybuf j ^^^ whitenKey j) &&& whitenMask n.toNat j := by
      rw [State.byte, hmemT]
      exact whitenBody_byte s hj
    have hbyteU := whitenBody_byte t hj
    rw [hbyteT, whitened_twice _ (whitenMask_keeps fun hlast => hlast ▸ hzero)] at hbyteU
    rw [hmemU]
    exact hbyteU
  · rw [hmemU, whitenBody_read_outside hlow t hin, hmemT, whitenBody_read_outside hlow s hin]

end Sys2Proof.Machine
end

section
/-! The interleaver and the convolutional encoder (44_phy_coding.md R143 to R145): the data slots as an image of the
coded bits, the encoder's window, and what CONV_INTERLEAVE leaves in the burst records. -/

namespace Sys2Proof.Machine

variable {nb : Nat}

/-! ### One coded bit for every data slot (R143, R145) -/

/-- Two coded bits of one burst do not arrive at once. -/
theorem arrival_inj {o p : Nat} (hroute : route o nb = route p nb) (harrival : arrival o nb = arrival p nb) :
    o = p := by
  rcases Nat.lt_trichotomy o p with hlt | heq | hgt
  · have := arrival_lt_arrival hlt hroute
    omega
  · exact heq
  · have := arrival_lt_arrival hgt hroute.symm
    omega

/-- The coded bit at place `gi` of round `grp` after the core bursts' first half. -/
theorem route_arrival_of_round {grp gi : Nat} (hgrp : grp < 24) (hgi : gi < nb - 12) :
    288 + (gi + (nb - 12) * grp) < 24 * nb ∧
      route (288 + (gi + (nb - 12) * grp)) nb = (if gi < 12 then 2 * gi + grp % 2 else gi + 12) ∧
      arrival (288 + (gi + (nb - 12) * grp)) nb = if gi < 12 then 12 + grp / 2 else grp := by
  have hmod : (gi + (nb - 12) * grp) % (nb - 12) = gi := by rw [Nat.add_mul_mod_self_left, Nat.mod_eq_of_lt hgi]
  have hdiv : (gi + (nb - 12) * grp) / (nb - 12) = grp := by
    rw [Nat.add_mul_div_left _ _ (by omega), Nat.div_eq_of_lt hgi, Nat.zero_add]
  have hlast : (nb - 12) * grp ≤ (nb - 12) * 23 := Nat.mul_le_mul_left _ (by omega)
  refine ⟨by omega, ?_, ?_⟩
  · simp [route, hmod, hdiv]
  · simp [arrival, hmod, hdiv]

/-- Every burst of the telegram gets a coded bit for each of its 24 places. -/
theorem exists_route_arrival (hnb : 24 ≤ nb) {r n : Nat} (hr : r < nb) (hn : n < 24) :
    ∃ o < 24 * nb, route o nb = r ∧ arrival o nb = n := by
  by_cases hcore : r < 24
  · by_cases hfirst : n < 12
    · obtain ⟨hroute, harrival⟩ := route_arrival_core (nb := nb) (o := 24 * n + r) (by omega)
      exact ⟨24 * n + r, by omega, by omega, by omega⟩
    · have hgrp : 2 * (n - 12) + r % 2 < 24 := by omega
      obtain ⟨hin, hroute, harrival⟩ := route_arrival_of_round hgrp (show r / 2 < nb - 12 by omega)
      rw [if_pos (by omega)] at hroute harrival
      exact ⟨_, hin, hroute.trans (by omega), harrival.trans (by omega)⟩
  · obtain ⟨hin, hroute, harrival⟩ := route_arrival_of_round hn (show r - 12 < nb - 12 by omega)
    rw [if_neg (by omega)] at hroute harrival
    exact ⟨_, hin, hroute.trans (by omega), harrival⟩

/-- Every data slot of a record is the place of one of its 24 data bits. -/
theorem exists_subPacketPos (r : Nat) {p : Nat} (hp : p < 12 ∨ (24 ≤ p ∧ p < 36)) : ∃ n < 24, subPacketPos r n = p := by
  rcases hp with hlow | ⟨hlow, hhigh⟩
  · refine ⟨2 * (11 - p) + r % 2, by omega, ?_⟩
    rw [subPacketPos_eq, if_neg (by omega)]
    omega
  · refine ⟨2 * (p - 24) + (r + 1) % 2, by omega, ?_⟩
    rw [subPacketPos_eq, if_pos (by omega)]
    omega

/-- Settles O50: burst and place name the coded bit, and a place of a burst is a data slot. -/
theorem interleaverIsOneToOneOntoDataSlots : Obligations.InterleaverIsOneToOneOntoDataSlots := by
  intro nb hnb _ pos
  refine ⟨fun o ho => ⟨route_lt hnb o, subPacketPos_mem_dataSlots _ (arrival_lt hnb ho)⟩,
    fun o ho q hq hroute hpos => ?_, fun r hr p hp => ?_⟩
  · have hplace : subPacketPos (route o nb) (arrival o nb) = subPacketPos (route o nb) (arrival q nb) :=
      hpos.trans (congrArg (subPacketPos · (arrival q nb)) hroute.symm)
    exact arrival_inj hroute (subPacketPos_inj _ (arrival_lt hnb ho) (arrival_lt hnb hq) hplace)
  · obtain ⟨n, hn, rfl⟩ := exists_subPacketPos r hp
    obtain ⟨o, ho, rfl, rfl⟩ := exists_route_arrival hnb hr hn
    exact ⟨o, ho, rfl, rfl⟩

/-! ### The encoder's window (R144) -/

theorem getLsbD_convWindow (sr : BitVec 6) (x : Bool) {d : Nat} (hd : d < 7) :
    (convWindow sr x).getLsbD d = if d = 0 then x else sr.getLsbD (d - 1) := by
  cases d with
  | zero => simp [convWindow]
  | succ d => simp [convWindow, hd]

/-- The next memory is the low six bits of the window. -/
theorem getLsbD_convShift (sr : BitVec 6) (x : Bool) {d : Nat} (hd : d < 6) :
    (convShift sr x).getLsbD d = (convWindow sr x).getLsbD d := by
  simp [convShift, convWindow, hd, show d < 7 by omega, show d - 1 < 6 by omega]

/-- The memory before input bit `i`: the window without its newest bit. -/
def MemoryAt (buf : Nat → Byte) (p i : Nat) (sr : BitVec 6) : Prop := ∀ d < 6, sr.getLsbD d = windowBit buf p i (d + 1)

/-- The preload leaves the stream bits before the first input bit; the two oldest of the eight are shifted out. -/
theorem memoryAt_convPreload (buf : Nat → Byte) {p : Nat} (hp : 16 ≤ p) : MemoryAt buf p 0 (convPreload buf p) := by
  have hloaded : ∀ d < 6, d < 8 → (convPreload buf p).getLsbD d = bitRead buf (p - 16 + (8 - 1 - d)) := by
    refine forRange_induct (Nat.zero_le 8) _ _
      (fun j (sr : BitVec 6) => ∀ d < 6, d < j → sr.getLsbD d = bitRead buf (p - 16 + (j - 1 - d)))
      (fun d _ hd => absurd hd (Nat.not_lt_zero d)) fun j sr _ hj ih d hd hdj => ?_
    rw [getLsbD_convShift _ _ hd, getLsbD_convWindow _ _ (by omega)]
    split
    next hnew =>
      rw [Nat.mod_eq_of_lt (by omega), show j + 1 - 1 - d = j by omega]
    next hold =>
      rw [ih _ (by omega) (by omega), show j - 1 - (d - 1) = j + 1 - 1 - d by omega]
  intro d hd
  rw [hloaded d hd (by omega), windowBit, if_neg (by omega),
    show p - 16 + (8 - 1 - d) = p - 9 - (d + 1 - 0 - 1) by omega]

/-- One more input bit: the next memory, and the bits of the window. -/
theorem MemoryAt.step {buf : Nat → Byte} {p i : Nat} {sr : BitVec 6} (h : MemoryAt buf p i sr) :
    MemoryAt buf p (i + 1) (convShift sr (convInput buf p i)) ∧
      ∀ d < 7, (convWindow sr (convInput buf p i)).getLsbD d = windowBit buf p i d := by
  have hnewest : convInput buf p i = windowBit buf p i 0 := (if_pos (Nat.zero_le i)).symm
  have hshifted (d : Nat) : windowBit buf p (i + 1) (d + 1) = windowBit buf p i d := by
    simp only [windowBit, Nat.add_le_add_iff_right, Nat.add_sub_add_right]
  have hwindow : ∀ d < 7, (convWindow sr (convInput buf p i)).getLsbD d = windowBit buf p i d := by
    intro d hd
    rw [getLsbD_convWindow _ _ hd]
    split
    next hzero => rw [hnewest, hzero]
    next hpos => rw [h _ (by omega), Nat.sub_add_cancel (by omega)]
  refine ⟨fun d hd => ?_, hwindow⟩
  rw [getLsbD_convShift _ _ hd, hshifted, hwindow d (by omega)]

/-- The three coded bits of input bit `i`, from its window. -/
theorem parity_eq_codedBit {buf : Nat → Byte} {i : Nat} {w : BitVec 7}
    (hw : ∀ d < 7, w.getLsbD d = windowBit buf (8 * nb) i d) {k : Nat} (hk : k < 3) :
    parity (convPoly k &&& w) = codedBit buf nb (3 * i + k) := by
  rw [parity, codedBit, show (3 * i + k) % 3 = k by omega, show (3 * i + k) / 3 = i by omega]
  refine List.foldl_ext _ _ _ fun p d hd => ?_
  rw [BitVec.getLsbD_and, hw d (List.mem_range.1 hd)]

/-! ### The records through the encoder's loop (R143, R144) -/

/-- The stream position of coded bit `o` in its burst: its data slot, after the head bits. -/
def streamPos (nb o : Nat) : Nat := subPacketPos (route o nb) (arrival o nb) + headBits

/-- The stream positions of the head, the midamble and the tail of a burst. -/
def NoDataSlot (i : Nat) : Prop := i < 2 ∨ (14 ≤ i ∧ i < 26) ∨ 38 ≤ i

theorem streamPos_bounds (hnb : 24 ≤ nb) {o : Nat} (ho : o < 24 * nb) :
    streamPos nb o < 40 ∧ ∀ i, NoDataSlot i → i ≠ streamPos nb o := by
  have hslot := subPacketPos_mem_dataSlots (route o nb) (arrival_lt hnb ho)
  simp only [streamPos, headBits, NoDataSlot]
  exact ⟨by omega, fun i _ => by omega⟩

theorem streamPos_inj (hnb : 24 ≤ nb) {o p : Nat} (ho : o < 24 * nb) (hp : p < 24 * nb)
    (hroute : route o nb = route p nb) (hpos : streamPos nb o = streamPos nb p) : o = p := by
  rw [streamPos, streamPos, hroute] at hpos
  exact arrival_inj hroute (subPacketPos_inj _ (arrival_lt hnb ho) (arrival_lt hnb hp) (Nat.add_right_cancel hpos))

/-- What holds of the record stored and of the records before holds of the records after. -/
theorem rec_put_forall (P : Nat → BurstRec → Prop) {b : Bursts} {r : Nat} {x : BurstRec} (hr : r < 260) (hsame : P r x)
    (hother : ∀ q, q ≠ r → P q (b.rec q)) (q : Nat) : P q ((b.put r x).rec q) := by
  by_cases hq : q = r
  · rwa [hq, Bursts.rec_put_same _ _ hr]
  · rw [Bursts.rec_put_other _ _ hq]
    exact hother q hq

/-- The records `b` once the coded bits before `o` have been stored in the records `b₀`. -/
structure Scattered (nb : Nat) (coded : Nat → Bool) (b₀ : Bursts) (o : Nat) (b : Bursts) : Prop where
  /-- CARRIER and TRB are unchanged. -/
  frame : ∀ q, b.rec q = { b₀.rec q with bits := (b.rec q).bits, cursor := (b.rec q).cursor }
  others : ∀ q, nb ≤ q → b.rec q = b₀.rec q
  cursor_le : ∀ q < nb, (b.rec q).cursor.toNat ≤ 24
  /-- The cursor of a burst divides its coded bits into those stored and those to come. -/
  arrived : ∀ p < 24 * nb, (arrival p nb < (b.rec (route p nb)).cursor.toNat ↔ p < o)
  placed : ∀ p < o, burstBit (b.rec (route p nb)).bits (streamPos nb p) = coded p
  kept : ∀ q, ∀ i < 40, NoDataSlot i → burstBit (b.rec q).bits i = burstBit (b₀.rec q).bits i

section
variable {coded : Nat → Bool} {b₀ b : Bursts} {o : Nat}

theorem scattered_start (hzero : ∀ q < nb, (b₀.rec q).cursor = 0#5) (hnb : 24 ≤ nb) : Scattered nb coded b₀ 0 b₀ where
  frame _ := rfl
  others _ _ := rfl
  cursor_le q hq := by simp [hzero q hq]
  arrived p _ := by simp [hzero _ (route_lt hnb p)]
  placed p hp := absurd hp (Nat.not_lt_zero p)
  kept _ _ _ _ := rfl

/-- The cursor of the burst of the next coded bit is where that bit arrives: were it lower, a later coded bit would
arrive at it. -/
theorem Scattered.cursor_eq (h : Scattered nb coded b₀ o b) (hnb : 24 ≤ nb) (ho : o < 24 * nb) :
    (b.rec (route o nb)).cursor.toNat = arrival o nb := by
  have hnot : ¬arrival o nb < (b.rec (route o nb)).cursor.toNat := fun hlt => Nat.lt_irrefl o ((h.arrived o ho).1 hlt)
  by_contra hne
  have hlt := arrival_lt hnb ho
  obtain ⟨p, hp, hroute, harrival⟩ :=
    exists_route_arrival hnb (route_lt hnb o) (n := (b.rec (route o nb)).cursor.toNat) (by omega)
  have hlater : ¬p < o := by
    rw [← h.arrived p hp, hroute, harrival]
    exact Nat.lt_irrefl _
  have hsame : p ≠ o := fun heq => by
    rw [heq] at harrival
    omega
  have := arrival_lt_arrival (show o < p by omega) hroute.symm
  omega

/-- Storing a record `x` that has the next coded bit in its place and the cursor moved past it. -/
theorem Scattered.put (h : Scattered nb coded b₀ o b) (hnb : 24 ≤ nb) (hmax : nb ≤ 259) (ho : o < 24 * nb)
    {x : BurstRec} (hcursor : (b.rec (route o nb)).cursor.toNat = arrival o nb)
    (hnext : x.cursor.toNat = arrival o nb + 1)
    (hx : x = { b.rec (route o nb) with
      bits := burstBitWrite (b.rec (route o nb)).bits (streamPos nb o) (coded o), cursor := x.cursor }) :
    Scattered nb coded b₀ (o + 1) (b.put (route o nb) x) := by
  have hr : route o nb < 260 := (route_lt hnb o).trans_le (by omega)
  have hlt := arrival_lt hnb ho
  obtain ⟨hpos, hdata⟩ := streamPos_bounds hnb ho
  have hbits : x.bits = burstBitWrite (b.rec (route o nb)).bits (streamPos nb o) (coded o) := congrArg BurstRec.bits hx
  have hsame : (b.put (route o nb) x).rec (route o nb) = x := Bursts.rec_put_same b x hr
  have hother {q : Nat} (hq : q ≠ route o nb) : (b.put (route o nb) x).rec q = b.rec q := Bursts.rec_put_other b x hq
  constructor
  case frame =>
    refine rec_put_forall (fun q y => y = { b₀.rec q with bits := y.bits, cursor := y.cursor }) hr ?_
      fun q _ => h.frame q
    rw [hx, h.frame]
  case others =>
    intro q hq
    have := route_lt hnb o
    rw [hother (by omega)]
    exact h.others q hq
  case cursor_le =>
    exact rec_put_forall (fun q y => q < nb → y.cursor.toNat ≤ 24) hr (fun _ => by omega) fun q _ => h.cursor_le q
  case arrived =>
    intro p hp
    have hbefore := h.arrived p hp
    by_cases hroute : route p nb = route o nb
    · have hinj : arrival p nb = arrival o nb ↔ p = o := ⟨arrival_inj hroute, congrArg (arrival · nb)⟩
      rw [hroute, hcursor] at hbefore
      rw [hroute, hsame, hnext]
      omega
    · have hne : p ≠ o := fun heq => hroute (congrArg (route · nb) heq)
      rw [hother hroute, hbefore]
      omega
  case placed =>
    intro p hp
    by_cases hnow : p = o
    · rw [hnow, hsame, hbits, burstBit_write _ _ hpos hpos, if_pos rfl]
    · have hbefore := h.placed p (by omega)
      by_cases hroute : route p nb = route o nb
      · have hp' : p < 24 * nb := by omega
        have hapart : streamPos nb p ≠ streamPos nb o := fun heq => hnow (streamPos_inj hnb hp' ho hroute heq)
        rw [hroute] at hbefore ⊢
        rw [hsame, hbits, burstBit_write _ _ hpos (streamPos_bounds hnb hp').1, if_neg hapart, hbefore]
      · rw [hother hroute, hbefore]
  case kept =>
    refine rec_put_forall
      (fun q y => ∀ i < 40, NoDataSlot i → burstBit y.bits i = burstBit (b₀.rec q).bits i) hr
      (fun i hi hno => ?_) fun q _ => h.kept q
    rw [hbits, burstBit_write _ _ hpos hi, if_neg (hdata i hno)]
    exact h.kept _ i hi hno

/-- Storing the next coded bit. -/
theorem Scattered.push (h : Scattered nb coded b₀ o b) (hnb : 24 ≤ nb) (hmax : nb ≤ 259) (ho : o < 24 * nb) :
    Scattered nb coded b₀ (o + 1)
      (b.put (route o nb) (pushDataBit (route o nb) (coded o) (b.rec (route o nb)))) := by
  have hcursor := h.cursor_eq hnb ho
  refine h.put hnb hmax ho hcursor ?_ ?_
  · have hlt := arrival_lt hnb ho
    have hone : (1 : BitVec 5).toNat = 1 := rfl
    simp only [pushDataBit, BitVec.toNat_add, hone]
    omega
  · rw [pushDataBit, hcursor, streamPos]

/-- Once every coded bit has been stored, every cursor of the telegram is 24. -/
theorem Scattered.cursor_end (h : Scattered nb coded b₀ (24 * nb) b) (hnb : 24 ≤ nb) {q : Nat} (hq : q < nb) :
    (b.rec q).cursor = 24#5 := by
  obtain ⟨p, hp, rfl, hlast⟩ := exists_route_arrival hnb hq (n := 23) (by omega)
  have hpast := (h.arrived p hp).2 hp
  have hle := h.cursor_le _ hq
  exact BitVec.eq_of_toNat_eq (show _ = 24 by omega)

/-- The three coded bits of one input bit. -/
theorem scattered_convScatter {buf : Nat → Byte} {i : Nat} (h : Scattered nb (codedBit buf nb) b₀ (3 * i) b)
    (hnb : 24 ≤ nb) (hmax : nb ≤ 259) (hi : i < 8 * nb) {w : BitVec 7}
    (hw : ∀ d < 7, w.getLsbD d = windowBit buf (8 * nb) i d) :
    Scattered nb (codedBit buf nb) b₀ (3 * (i + 1)) (convScatter i nb w b) := by
  rw [Nat.mul_succ]
  unfold convScatter
  refine forRange_induct (Nat.zero_le 3) _ _ (fun k c => Scattered nb (codedBit buf nb) b₀ (3 * i + k) c) h
    fun k c _ hk hc => ?_
  simp only
  rw [parity_eq_codedBit hw hk]
  exact hc.push hnb hmax (by omega)

end

/-- The memory and the records after the encoder's loop. -/
theorem scattered_convLoop (hnb : 24 ≤ nb) (hmax : nb ≤ 259) (buf : Nat → Byte) {b : Bursts}
    (hzero : ∀ q < nb, (b.rec q).cursor = 0#5) :
    MemoryAt buf (8 * nb) (8 * nb) (convLoop buf nb b).1 ∧
      Scattered nb (codedBit buf nb) b (24 * nb) (convLoop buf nb b).2 := by
  rw [show 24 * nb = 3 * (8 * nb) by omega]
  refine forRange_induct (Nat.zero_le (8 * nb)) _ _
    (fun i (t : BitVec 6 × Bursts) => MemoryAt buf (8 * nb) i t.1 ∧ Scattered nb (codedBit buf nb) b (3 * i) t.2)
    ⟨memoryAt_convPreload buf (by omega), scattered_start hzero hnb⟩ fun i t _ hi ⟨hmemory, hrecords⟩ => ?_
  obtain ⟨hnext, hwindow⟩ := hmemory.step
  exact ⟨hnext, scattered_convScatter hrecords hnb hmax hi hwindow⟩

/-! ### CONV_INTERLEAVE (R144) -/

/-- The end of a CONV_INTERLEAVE without an error. -/
theorem exec_convInterleave {s : State} {n : BitVec 9} (hlow : 24 ≤ n.toNat) (hhigh : n.toNat ≤ 259)
    (hzero : ∀ r < n.toNat, (s.burst r).cursor = 0#5) :
    exec (.convInterleave n) s = .next
      { s with
        status := { lastErr := 0x00#8, lastOp := 0x44#8 }, result := 0,
        convSr := (convLoop (s.byte .phybuf) n.toNat s.bursts).1,
        bursts := (convLoop (s.byte .phybuf) n.toNat s.bursts).2 } := by
  have hrange : rangeError s (.convInterleave n) = false := by simpa [rangeError, hlow, hhigh] using hzero
  exact exec_of_quietBody (commandError_eq_none hrange rfl rfl) fun st v e => convInterleaveBody_withReports s st v e _

/-- Settles O51: the error, and the records and the memory after the encoder's loop. -/
theorem convInterleaveScattersCodedBits : Obligations.ConvInterleaveScattersCodedBits := by
  intro s n
  refine ⟨fun herror => exec_of_rangeError rfl (by simpa [rangeError, or_assoc] using herror),
    fun hlow hhigh hzero => ?_⟩
  obtain ⟨hmemory, hrecords⟩ := scattered_convLoop hlow hhigh (s.byte .phybuf) hzero
  refine ⟨_, exec_convInterleave hlow hhigh hzero, rfl, hrecords.placed, fun r hr => ⟨?_, hrecords.kept r⟩,
    hrecords.others, fun d hd => ?_⟩
  · have hrec := hrecords.frame r
    rw [hrecords.cursor_end hlow hr] at hrec
    exact hrec
  · rw [hmemory d hd, windowBit, if_pos (by omega),
      show 8 * n.toNat - (d + 1) + 8 * n.toNat - 16 = 8 * n.toNat - 17 - d + 8 * n.toNat by omega,
      Nat.add_mod_right, Nat.mod_eq_of_lt (by omega)]

end Sys2Proof.Machine
end

section
/-! The TSMA burst scheduler (45_tsma_sync.md R147 to R151, R158, R159): the LFSR, the records that TSMA_ASSIGN
schedules, and the pattern rotation. -/

namespace Sys2Proof.Machine

/-- A command with its operands in range and a bad configuration ends in CONFIG_ERROR (60_exceptions.md R170, R173). -/
theorem exec_of_configError {i : Instr} {s : State} (hF0 : clearsF0 i = false) (hrange : rangeError s i = false)
    (h : configError s i = true) : exec i s = .next (s.failed i.mnemonic.opcode 1#8) :=
  exec_of_commandError hF0 (by simp [commandError, hrange, h])

/-! ### The LFSR (R147, R148, R149) -/

/-- One step as a number: half, and the feedback if the number was odd. -/
theorem toNat_lfsrNext (x : BitVec 16) :
    (lfsrNext x).toNat = if x.toNat % 2 = 1 then (x.toNat / 2) ^^^ 0xB4F3 else x.toNat / 2 := by
  have hlow : x.getLsbD 0 = decide (x.toNat % 2 = 1) := Nat.testBit_zero x.toNat
  have hhalf : (x >>> 1).toNat = x.toNat / 2 := BitVec.toNat_ushiftRight x 1
  rw [lfsrNext, hlow]
  by_cases hodd : x.toNat % 2 = 1
  · rw [if_pos (decide_eq_true hodd), if_pos hodd, BitVec.toNat_xor, hhalf]
    rfl
  · rw [if_neg (by simpa using hodd), if_neg hodd, hhalf]

/-- The feedback 0xB4F3 has the top bit set, so a step's top bit tells whether the feedback was taken. -/
theorem getLsbD_lfsrNext_top (x : BitVec 16) : (lfsrNext x).getLsbD 15 = x.getLsbD 0 := by
  have hhalf : (x >>> 1).getLsbD 15 = false := by
    rw [BitVec.getLsbD_ushiftRight, BitVec.getLsbD_of_ge _ _ (by decide)]
  unfold lfsrNext
  split
  next hodd => rw [BitVec.getLsbD_xor, hhalf, hodd]; rfl
  next heven => rw [hhalf, Bool.eq_false_iff.2 heven]

/-- Steps to one state agree on the feedback, hence on the bit shifted out and on the bits kept. -/
theorem lfsrNext_injective : Function.Injective lfsrNext := by
  intro x y h
  have hlow : x.getLsbD 0 = y.getLsbD 0 := by rw [← getLsbD_lfsrNext_top, h, getLsbD_lfsrNext_top]
  have hhalf : x >>> 1 = y >>> 1 := by
    rw [lfsrNext, lfsrNext, hlow] at h
    split at h
    · exact (BitVec.xor_left_inj _).1 h
    · exact h
  refine BitVec.eq_of_getLsbD_eq fun i _ => ?_
  cases i with
  | zero => exact hlow
  | succ i =>
    have hbit := congrArg (fun z : BitVec 16 => z.getLsbD i) hhalf
    simpa only [BitVec.getLsbD_ushiftRight, Nat.add_comm 1 i] using hbit

/-- Settles O53: LFSR_STEP has no check, its step is `lfsrNext`, and a finite injection is a bijection. -/
theorem lfsrStepResult : Obligations.LfsrStepResult := by
  refine ⟨fun s => ⟨lfsrNext s.tsmaLfsr, toNat_lfsrNext _, exec_of_quietBody rfl fun _ _ _ => rfl⟩,
    Finite.injective_iff_bijective.1 lfsrNext_injective, fun x => ?_⟩
  exact lfsrNext_injective.eq_iff' (by decide)

/-! ### The schedule (R7, R150) -/

/-- Every carrier index is in 0..23, the transcribed row's and the free values alike. -/
theorem tsmaCRb_lt (upg : BitVec 2) (pattern : BitVec 3) (i : Nat) : tsmaCRb upg pattern i < 24 := by
  unfold tsmaCRb
  split
  · by_cases hi : i < upg1Pattern0.length
    · have hrow : ∀ x ∈ upg1Pattern0, x < 24 := by decide
      rw [List.getD_eq_getElem _ _ hi]
      exact hrow _ (List.getElem_mem hi)
    · rw [List.getD_eq_default _ _ (by omega)]
      decide
  · exact Fin.isLt _

theorem extensionState_succ (seed : BitVec 16) {i : Nat} (hi : 23 ≤ i) :
    extensionState seed (i + 1) = lfsrNext (extensionState seed i) := by
  rw [extensionState, extensionState, show i + 1 - 23 = (i - 23) + 1 by omega, Function.iterate_succ_apply']

section
variable (upg : BitVec 2) (p : BitVec 3) (seed : BitVec 16)

/-- The carrier index of burst `i`: from the table below 24, from the LFSR from there on. -/
def scheduledIndex (i : Nat) : Nat :=
  if i < 24 then tsmaCRb upg p i else (extensionState seed i).toNat / 256 % 25

/-- The delay from burst `i` to the next: from the table below 23, else from the LFSR state that the next burst uses. -/
def scheduledDelay (i : Nat) : BitVec 16 :=
  if i < 23 then Config.tsmaTRb upg p i
  else BitVec.ofNat 16 (timeSpacing upg + (extensionState seed (i + 1)).toNat % 128)

theorem scheduledIndex_core {i : Nat} (hi : i < 24) : scheduledIndex upg p seed i = tsmaCRb upg p i := if_pos hi

theorem scheduledIndex_extension {i : Nat} (hi : 24 ≤ i) :
    scheduledIndex upg p seed i = (extensionState seed i).toNat / 256 % 25 := if_neg (by omega)

theorem scheduledIndex_le (i : Nat) : scheduledIndex upg p seed i ≤ 24 := by
  have hcore := tsmaCRb_lt upg p i
  unfold scheduledIndex
  split <;> omega

theorem scheduledDelay_core {i : Nat} (hi : i < 23) : scheduledDelay upg p seed i = Config.tsmaTRb upg p i := if_pos hi

/-- The delay before extension burst `i`. -/
theorem scheduledDelay_extension {i : Nat} (hi : 24 ≤ i) : scheduledDelay upg p seed (i - 1) =
    BitVec.ofNat 16 (timeSpacing upg + (extensionState seed i).toNat % 128) := by
  rw [scheduledDelay, if_neg (by omega), Nat.sub_add_cancel (by omega)]

theorem toNat_scheduledDelay {i : Nat} (hi : 24 ≤ i) :
    (scheduledDelay upg p seed (i - 1)).toNat = timeSpacing upg + (extensionState seed i).toNat % 128 := by
  have hspacing : timeSpacing upg ≤ 337 := by
    unfold timeSpacing
    split <;> decide
  rw [scheduledDelay_extension upg p seed hi, BitVec.toNat_ofNat, Nat.mod_eq_of_lt (by omega)]

/-! ### The records through the loops (R150) -/

/-- The records `b` once bursts 0..k-1 have been scheduled in the records `b₀`. The delay of the last of them waits for
the burst after it. -/
structure Scheduled (bc : BitVec 16) (b₀ : Bursts) (k : Nat) (b : Bursts) : Prop where
  /-- BITS and CURSOR are unchanged. -/
  frame : ∀ q, b.rec q = { b₀.rec q with carrier := (b.rec q).carrier, trb := (b.rec q).trb }
  carrier : ∀ q < k, (b.rec q).carrier = BitVec.ofNat 16 (scheduledIndex upg p seed q * bc.toNat)
  trb : ∀ q, q + 1 < k → (b.rec q).trb = scheduledDelay upg p seed q
  others : ∀ q, k ≤ q → b.rec q = b₀.rec q

end

section
variable {upg : BitVec 2} {p : BitVec 3} {seed bc : BitVec 16} {b₀ b : Bursts} {k : Nat}

theorem rec_put (b : Bursts) {r : Nat} (x : BurstRec) (hr : r < 260) (q : Nat) :
    (b.put r x).rec q = if q = r then x else b.rec q := by
  split
  next heq => rw [heq, Bursts.rec_put_same _ _ hr]
  next hne => exact Bursts.rec_put_other _ _ hne

/-- The core loop schedules the core bursts. -/
theorem scheduled_tsmaCore (b₀ : Bursts) : Scheduled upg p seed bc b₀ 24 (tsmaCore upg p bc b₀) where
  frame q := by
    rw [tsmaCore_rec]
    split <;> rfl
  carrier q hq := by rw [tsmaCore_rec, if_pos hq, scheduledIndex_core _ _ _ hq]
  trb q hq := by rw [tsmaCore_rec, if_pos (by omega), scheduledDelay_core _ _ _ (by omega)]
  others q hq := by rw [tsmaCore_rec, if_neg (by omega)]

/-- One extension burst: its carrier, and the delay of the burst before it. -/
theorem Scheduled.extend (h : Scheduled upg p seed bc b₀ k b) (hlow : 24 ≤ k) (hhigh : k < 260) {x y : BurstRec}
    (hx : x = { b.rec k with carrier := BitVec.ofNat 16 (scheduledIndex upg p seed k * bc.toNat) })
    (hy : y = { b.rec (k - 1) with trb := scheduledDelay upg p seed (k - 1) }) :
    Scheduled upg p seed bc b₀ (k + 1) ((b.put k x).put (k - 1) y) := by
  have hrec (q : Nat) : ((b.put k x).put (k - 1) y).rec q =
      if q = k - 1 then y else if q = k then x else b.rec q := by
    rw [rec_put _ _ (by omega), rec_put _ _ hhigh]
  constructor
  case frame =>
    intro q
    rw [hrec]
    split
    next hprev => rw [hy, hprev, h.frame]
    next =>
      split
      next hnew => rw [hx, hnew, h.frame]
      next => exact h.frame q
  case carrier =>
    intro q hq
    rw [hrec]
    split
    next hprev => rw [hy, hprev, h.carrier _ (by omega)]
    next =>
      split
      next hnew => rw [hx, hnew]
      next => exact h.carrier q (by omega)
  case trb =>
    intro q hq
    rw [hrec]
    split
    next hprev => rw [hy, hprev]
    next => rw [if_neg (by omega), h.trb q (by omega)]
  case others =>
    intro q hq
    rw [hrec, if_neg (by omega), if_neg (by omega), h.others q (by omega)]

/-- The extension loop schedules the extension bursts, one LFSR step each. -/
theorem scheduled_tsmaExtension (h : Scheduled upg p seed bc b₀ 24 b) {nb : Nat} (hlow : 24 ≤ nb) (hhigh : nb ≤ 259) :
    (tsmaExtension nb upg bc seed b).1 = extensionState seed (nb - 1) ∧
      Scheduled upg p seed bc b₀ nb (tsmaExtension nb upg bc seed b).2 := by
  unfold tsmaExtension
  refine forRange_induct hlow _ _
    (fun k (t : BitVec 16 × Bursts) => t.1 = extensionState seed (k - 1) ∧ Scheduled upg p seed bc b₀ k t.2)
    ⟨rfl, h⟩ fun k t hk hlt ⟨hstate, hrecords⟩ => ?_
  have hnext : lfsrNext t.1 = extensionState seed k := by
    rw [hstate, ← extensionState_succ seed (by omega), Nat.sub_add_cancel (by omega)]
  have hindex : (extensionState seed k >>> 8).toNat % 25 = scheduledIndex upg p seed k := by
    rw [scheduledIndex_extension upg p seed hk, BitVec.toNat_ushiftRight, Nat.shiftRight_eq_div_pow]
  refine ⟨hnext, ?_⟩
  simp only [hnext, hindex, ← scheduledDelay_extension upg p seed hk]
  refine hrecords.extend hk (by omega) rfl ?_
  rw [Bursts.rec_put_other _ _ (by omega)]

/-- Writing the last burst's own delay leaves the schedule as it is. -/
theorem Scheduled.setLastDelay (h : Scheduled upg p seed bc b₀ k b) (hlow : 1 ≤ k) (hhigh : k ≤ 260) (d : BitVec 16) :
    Scheduled upg p seed bc b₀ k (b.put (k - 1) { b.rec (k - 1) with trb := d }) := by
  have hlast : k - 1 < 260 := by omega
  constructor
  case frame =>
    refine rec_put_forall (fun q y => y = { b₀.rec q with carrier := y.carrier, trb := y.trb }) hlast ?_
      fun q _ => h.frame q
    rw [h.frame]
  case carrier =>
    exact rec_put_forall (fun q y => q < k → y.carrier = BitVec.ofNat 16 (scheduledIndex upg p seed q * bc.toNat))
      hlast (h.carrier _) fun q _ => h.carrier q
  case trb =>
    intro q hq
    rw [Bursts.rec_put_other _ _ (by omega), h.trb q hq]
  case others =>
    intro q hq
    rw [Bursts.rec_put_other _ _ (by omega), h.others q hq]

/-- A scheduled carrier stays below the sentinel of a punctured burst (R146). -/
theorem Scheduled.toNat_carrier (h : Scheduled upg p seed bc b₀ k b) (hbound : 24 * bc.toNat ≤ 0xFFFE) {q : Nat}
    (hq : q < k) : (b.rec q).carrier.toNat = scheduledIndex upg p seed q * bc.toNat ∧
      (b.rec q).carrier ≠ 0xFFFF#16 := by
  have hle : scheduledIndex upg p seed q * bc.toNat ≤ 24 * bc.toNat :=
    Nat.mul_le_mul_right _ (scheduledIndex_le upg p seed q)
  have hvalue : (b.rec q).carrier.toNat = scheduledIndex upg p seed q * bc.toNat := by
    rw [h.carrier q hq, BitVec.toNat_ofNat, Nat.mod_eq_of_lt (by omega)]
  exact ⟨hvalue, by bv_omega⟩

end

/-! ### TSMA_ASSIGN (R150, R151) -/

/-- The LFSR and the records that the body of TSMA_ASSIGN leaves. -/
theorem scheduled_tsmaAssignBody {nb : Nat} (pat : BitVec 3) (s : State) (hlow : 24 ≤ nb) (hhigh : nb ≤ 259) :
    (tsmaAssignBody nb pat s).2.tsmaLfsr = extensionState (tsmaSeed s.crcHdr s.crcPay) (nb - 1) ∧
      Scheduled s.upg (corePattern s.upg pat) (tsmaSeed s.crcHdr s.crcPay) s.bC s.bursts nb
        (tsmaAssignBody nb pat s).2.bursts ∧
      ((tsmaAssignBody nb pat s).2.burst (nb - 1)).trb = 0 := by
  obtain ⟨hstate, hrecords⟩ := scheduled_tsmaExtension (scheduled_tsmaCore (upg := s.upg)
    (p := corePattern s.upg pat) (seed := tsmaSeed s.crcHdr s.crcPay) (bc := s.bC) s.bursts) hlow hhigh
  exact ⟨hstate, hrecords.setLastDelay (by omega) (by omega) 0,
    congrArg BurstRec.trb (Bursts.rec_put_same _ _ (by omega))⟩

/-- The end of a TSMA_ASSIGN without an error. -/
theorem exec_tsmaAssign {s : State} {nb : BitVec 9} (pat : BitVec 3) (hlow : 24 ≤ nb.toNat) (hhigh : nb.toNat ≤ 259)
    (hregion : RegionOk s) :
    ∃ t, exec (.tsmaAssign nb pat) s = .next t ∧
      t = { s with
        status := { lastErr := 0x00#8, lastOp := 0x50#8 }, result := 0,
        tsmaLfsr := extensionState (tsmaSeed s.crcHdr s.crcPay) (nb.toNat - 1), bursts := t.bursts } ∧
      Scheduled s.upg (corePattern s.upg pat) (tsmaSeed s.crcHdr s.crcPay) s.bC s.bursts nb.toNat t.bursts ∧
      (t.burst (nb.toNat - 1)).trb = 0 := by
  have hrange : rangeError s (.tsmaAssign nb pat) = false := by simp [rangeError, hlow, hhigh]
  have hconfig : configError s (.tsmaAssign nb pat) = false := decide_eq_false (not_not_intro hregion)
  have hexec := exec_of_quietBody (commandError_eq_none hrange hconfig rfl)
    fun st v e => tsmaAssignBody_withReports s st v e _ _
  obtain ⟨hstate, hrecords, hlast⟩ := scheduled_tsmaAssignBody pat s hlow hhigh
  refine ⟨_, hexec, ?_, hrecords, hlast⟩
  rw [← hstate]
  rfl

/-- Settles O52: the two errors in their order, and the records that the loops have scheduled. -/
theorem tsmaAssignResult : Obligations.TsmaAssignResult := by
  refine ⟨⟨by decide, tsmaCRb_lt⟩, fun s nb pat => ⟨fun herror => ?_, fun hlow hhigh hregion => ?_,
    fun hlow hhigh hregion => ?_⟩⟩
  · exact exec_of_rangeError rfl (by simpa [rangeError] using herror)
  · exact exec_of_configError rfl (by simp [rangeError, hlow, hhigh]) (decide_eq_true hregion)
  · obtain ⟨t, hexec, hframe, hscheduled, hlast⟩ := exec_tsmaAssign pat hlow hhigh hregion
    obtain ⟨-, -, hbound, -⟩ := hregion
    refine ⟨t, hexec, ?_⟩
    intro p seed ts
    have hrecords : Scheduled s.upg p seed s.bC s.bursts nb.toNat t.bursts := hscheduled
    have hcarrier (i : Nat) (hi : i < nb.toNat) := hrecords.toNat_carrier hbound hi
    refine ⟨hframe, fun i hi => ?_, fun i hi => ?_, fun i hcore hi => ⟨?_, ?_⟩, hlast,
      fun i hi => ⟨hrecords.frame i, (hcarrier i hi).2⟩, hrecords.others⟩
    · rw [← scheduledIndex_core s.upg p seed hi]
      exact (hcarrier i (by omega)).1
    · rw [← scheduledDelay_core s.upg p seed hi]
      exact hrecords.trb i (by omega)
    · rw [← scheduledIndex_extension s.upg p seed hcore]
      exact (hcarrier i hi).1
    · rw [State.burst, hrecords.trb (i - 1) (by omega)]
      exact toNat_scheduledDelay s.upg p seed hcore

/-! ### TSMA_PATTERN (R158, R159) -/

/-- The rotation's pattern is an entry of ORDER, none of which is above 5. -/
theorem patternOf_spec (counter : Nat) :
    patternOrder[counter % 15]? = some (patternOf counter) ∧ patternOf counter ≤ 5 := by
  have hin : counter % 15 < patternOrder.length := Nat.mod_lt _ (by decide)
  have hentries : ∀ x ∈ patternOrder, x ≤ 5 := by decide
  rw [patternOf, List.getD_eq_getElem _ _ hin]
  exact ⟨List.getElem?_eq_getElem hin, hentries _ (List.getElem_mem hin)⟩

/-- Settles O56: TSMA_PATTERN has no check and writes nothing. -/
theorem tsmaPatternResult : Obligations.TsmaPatternResult := by
  intro s counter
  obtain ⟨hentry, hle⟩ := patternOf_spec counter.toNat
  exact ⟨_, hentry, hle, exec_of_writesNothing rfl fun _ _ _ => rfl⟩

end Sys2Proof.Machine
end

section
/-! The channel frequency and the sync burst (45_tsma_sync.md R146, R152 to R157): the bounds of f_0, the bytes and
bits of the sync sequence, and record 259. -/

namespace Sys2Proof.Machine

/-! ### CALC_F0 (R146, R152, R153) -/

/-- The channel's offset, in whole channels. -/
theorem cRf_eq (crcPay : Byte) (nCo : BitVec 4) :
    cRf crcPay nCo = ((crcPay.toNat % 128 % nCo.toNat : Nat) : Int) - ((nCo.toNat / 2 : Nat) : Int) := by
  rw [cRf, BitVec.toNat_and, show (0x7F#8).toNat = 2 ^ 7 - 1 from rfl, Nat.and_two_pow_sub_one_eq_mod]

/-- The channel count is odd, so the offset is at most half of it on either side. -/
theorem cRf_bounds (crcPay : Byte) {nCo : BitVec 4} (h : nCo = 3#4 ∨ nCo = 11#4) :
    -((nCo.toNat / 2 : Nat) : Int) ≤ cRf crcPay nCo ∧ cRf crcPay nCo ≤ ((nCo.toNat / 2 : Nat) : Int) := by
  have hodd : nCo.toNat = 3 ∨ nCo.toNat = 11 := h.imp (congrArg BitVec.toNat) (congrArg BitVec.toNat)
  rw [cRf_eq]
  rcases hodd with hthree | heleven
  · rw [hthree]
    omega
  · rw [heleven]
    omega

/-- f_0 as an integer: the channel is chosen by the top bit of the payload CRC. -/
theorem f0Int_eq (s : State) : f0Int s =
    ((if 128 ≤ s.crcPay.toNat then s.chanB else s.chanA).toNat : Int) - 12 * s.bC.toNat
      + (((s.crcPay.toNat % 128 % s.nCo.toNat : Nat) : Int) - ((s.nCo.toNat / 2 : Nat) : Int)) * s.bC0.toNat := by
  have htop : s.crcPay.getLsbD 7 = decide (128 ≤ s.crcPay.toNat) := BitVec.msb_eq_decide s.crcPay
  simp only [f0Int, cRf_eq, htop, decide_eq_true_eq]

/-- RegionCheck bounds f_0 at the outermost offsets of either channel, and so at every offset between. -/
theorem f0Int_bounds {s : State} (h : RegionOk s) : 1 ≤ f0Int s ∧ f0Int s ≤ 0xFFFFFFFF := by
  obtain ⟨-, hcount, -, hA, hB⟩ := h
  have hchannel : ChannelOk s (if s.crcPay.getLsbD 7 then s.chanB else s.chanA) := by
    split
    · exact hB
    · exact hA
  obtain ⟨hlow, hhigh⟩ := hchannel
  obtain ⟨hleft, hright⟩ := cRf_bounds s.crcPay hcount
  have hspacing : (0 : Int) ≤ s.bC0.toNat := Int.natCast_nonneg _
  have hleft := mul_le_mul_of_nonneg_right hleft hspacing
  have hright := mul_le_mul_of_nonneg_right hright hspacing
  rw [neg_mul] at hleft
  simp only [f0Int]
  omega

/-- What is stored is f_0 itself. -/
theorem toNat_f0Value {s : State} (h : RegionOk s) : ((f0Value s).toNat : Int) = f0Int s := by
  obtain ⟨hlow, hhigh⟩ := f0Int_bounds h
  rw [f0Value, BitVec.toNat_ofInt, Int.emod_eq_of_lt (by omega) (by omega), Int.toNat_of_nonneg (by omega)]

/-- Settles O54: the error, and f_0 as it is stored. -/
theorem calcF0Result : Obligations.CalcF0Result := by
  intro s
  refine ⟨fun hregion => exec_of_configError rfl rfl (decide_eq_true hregion), fun hregion => ⟨f0Value s, ?_⟩⟩
  have hvalue := toNat_f0Value hregion
  obtain ⟨hlow, -⟩ := f0Int_bounds hregion
  refine ⟨hvalue.trans (f0Int_eq s), by omega, ?_⟩
  exact exec_of_quietBody (commandError_eq_none rfl (decide_eq_false (not_not_intro hregion)) rfl) fun _ _ _ => rfl

/-! ### Bytes and bits of a burst stream (10_state.md R56; 00_scope.md R14) -/

theorem getLsbD_burstByte (b : BurstBits) {k j : Nat} (hk : k < 5) (hj : j < 8) :
    (burstByte b k).getLsbD j = burstBit b (8 * k + 7 - j) := by
  rw [burstByte, burstBit, BitVec.getLsbD_extractLsb', decide_eq_true hj, decide_eq_true (by omega),
    show 39 - (8 * k + 7 - j) = 32 - 8 * k + j by omega]

/-- A bit written in one byte leaves the other bytes. -/
theorem burstByte_write_other (b : BurstBits) {i k : Nat} (v : Bool) (hi : i < 40) (hk : k < 5) (hother : i / 8 ≠ k) :
    burstByte (burstBitWrite b i v) k = burstByte b k := by
  refine BitVec.eq_of_getLsbD_eq fun j hj => ?_
  rw [getLsbD_burstByte _ hk hj, getLsbD_burstByte _ hk hj, burstBit_write _ _ hi (by omega), if_neg (by omega)]

/-- Bits written at consecutive positions: what a loop of BitWrite leaves. -/
theorem burstBit_forRange_write (b : BurstBits) (v : Nat → Bool) {n off i : Nat} (hfit : n + off ≤ 40) (hi : i < 40) :
    burstBit (forRange 0 n (fun j t => burstBitWrite t (j + off) (v j)) b) i =
      if off ≤ i ∧ i < n + off then v (i - off) else burstBit b i := by
  refine forRange_induct (Nat.zero_le n) _ b
    (fun n t => burstBit t i = if off ≤ i ∧ i < n + off then v (i - off) else burstBit b i)
    (by rw [if_neg (by omega)]) fun j t _ hj ih => ?_
  rw [burstBit_write _ _ (by omega) hi, ih]
  by_cases hnow : i = j + off
  · rw [if_pos hnow, if_pos (by omega), hnow, Nat.add_sub_cancel]
  · rw [if_neg hnow]
    exact if_congr (by omega) rfl rfl

/-! ### The sync sequence (R154, R156) -/

/-- The five bytes of a stream, appended, are its bytes. -/
theorem burstByte_append (x0 x1 x2 x3 x4 : Byte) :
    burstByte (x0 ++ x1 ++ x2 ++ x3 ++ x4) 0 = x0 ∧ burstByte (x0 ++ x1 ++ x2 ++ x3 ++ x4) 1 = x1 ∧
      burstByte (x0 ++ x1 ++ x2 ++ x3 ++ x4) 2 = x2 ∧ burstByte (x0 ++ x1 ++ x2 ++ x3 ++ x4) 3 = x3 ∧
      burstByte (x0 ++ x1 ++ x2 ++ x3 ++ x4) 4 = x4 := by
  have hpast {w start : Nat} {hi : BitVec w} {lo : Byte} :
      (hi ++ lo).extractLsb' (start + 8) 8 = hi.extractLsb' start 8 :=
    BitVec.extractLsb'_append_eq_of_le (Nat.le_add_left 8 start)
  exact ⟨hpast.trans (hpast.trans (hpast.trans BitVec.extractLsb'_append_eq_left)),
    hpast.trans (hpast.trans (hpast.trans BitVec.extractLsb'_append_eq_right)),
    hpast.trans (hpast.trans BitVec.extractLsb'_append_eq_right),
    hpast.trans BitVec.extractLsb'_append_eq_right, BitVec.extractLsb'_append_eq_right⟩

section
variable (s : State) (pat : BitVec 3)

/-- The CRC-2 is written past the bytes 0..3. -/
theorem burstByte_syncSeq {k : Nat} (hk : k < 4) : burstByte (syncSeq s pat) k = burstByte (syncSeqOpen s pat) k := by
  rw [syncSeq, burstByte_write_other _ _ (by decide) (by omega) (by omega),
    burstByte_write_other _ _ (by decide) (by omega) (by omega)]

theorem burstBit_syncSeq {i : Nat} (hi : i < 40) : burstBit (syncSeq s pat) i =
    if i = 35 then (syncCrc s pat).getLsbD 0 else if i = 34 then (syncCrc s pat).getLsbD 1
    else burstBit (syncSeqOpen s pat) i := by
  rw [syncSeq, burstBit_write _ _ (by decide) hi, burstBit_write _ _ (by decide) hi]

/-- The bytes of the sequence before the UPG byte. -/
theorem syncSeq_bytes :
    burstByte (syncSeq s pat) 0 = 0x33#8 ∧ burstByte (syncSeq s pat) 1 = 0x3D#8 ∧
      burstByte (syncSeq s pat) 2 = 0x30#8 + pat.setWidth 8 ∧ burstByte (syncSeq s pat) 3 = lsbShortAddr s := by
  have hpattern : ∀ x : BitVec 3, 0x30#8 ||| x.setWidth 8 = 0x30#8 + x.setWidth 8 := by decide
  obtain ⟨h0, h1, h2, h3, -⟩ :=
    burstByte_append 0x33#8 0x3D#8 (0x30#8 ||| pat.setWidth 8) (lsbShortAddr s) (upgByte s.upg)
  iterate 4 rw [burstByte_syncSeq s pat (by decide)]
  exact ⟨h0, h1, h2.trans (hpattern pat), h3⟩

/-- The two UPG bits are the top bits of the UPG byte. -/
theorem syncSeq_upg_bits :
    burstBit (syncSeq s pat) 32 = (s.upg == 3#2) ∧ burstBit (syncSeq s pat) 33 = (s.upg == 2#2) := by
  have hbits : ∀ u : BitVec 2, (upgByte u).getLsbD 7 = (u == 3#2) ∧ (upgByte u).getLsbD 6 = (u == 2#2) := by decide
  obtain ⟨-, -, -, -, hupg⟩ :=
    burstByte_append 0x33#8 0x3D#8 (0x30#8 ||| pat.setWidth 8) (lsbShortAddr s) (upgByte s.upg)
  have hopen {j : Nat} (hj : j < 8) : (upgByte s.upg).getLsbD j = burstBit (syncSeqOpen s pat) (8 * 4 + 7 - j) := by
    rw [← getLsbD_burstByte _ (by decide) hj, syncSeqOpen, hupg]
  obtain ⟨h7, h6⟩ := hbits s.upg
  rw [← h7, ← h6, hopen (by decide), hopen (by decide), burstBit_syncSeq s pat (by decide),
    burstBit_syncSeq s pat (by decide)]
  exact ⟨rfl, rfl⟩

/-- The CRC-2 covers bits that its own writing leaves, so it is also the CRC-2 of the whole sequence. -/
theorem syncCrc_eq : syncCrc s pat = crc2Of (burstBit (syncSeq s pat)) 20 14 := by
  refine forRange_congr _ fun j reg _ hj => congrArg (crc2Step reg) ?_
  rw [burstBit_syncSeq s pat (by omega), if_neg (by omega), if_neg (by omega)]

end

theorem lsbShortAddr_eq (s : State) : lsbShortAddr s =
    if s.ctrl.shortOvrEn = true then s.shortAddrOvr.extractLsb' 0 8 else s.byte .eui64 7 := by
  rw [lsbShortAddr, BitVec.setWidth_eq_extractLsb' (by decide)]

/-! ### SYNC_ENCODE (R157) -/

/-- The sequence stands after the head bits of a zero burst. -/
theorem burstBit_syncPayload (seq : BurstBits) {i : Nat} (hi : i < 40) :
    burstBit (syncPayload seq) i = if 2 ≤ i ∧ i < 38 then burstBit seq (i - 2) else false := by
  rw [syncPayload, headBits, burstBit_forRange_write _ _ (by decide) hi]
  simp [burstBit]

/-- Record 259 as SYNC_ENCODE leaves it. -/
def syncBurst (s : State) (pat : BitVec 3) : BurstRec where
  bits := diffMskBits (syncPayload (syncSeq s pat))
  cursor := 0
  carrier := BitVec.ofNat 16 (24 * s.bC.toNat)
  trb := BitVec.ofNat 16 (timeSpacing s.upg)

theorem configError_syncEncode (s : State) (pat : BitVec 3) :
    configError s (.syncEncode pat) = true ↔ ¬RegionOk s ∨ s.ctrl.euiLock = false := by
  rw [configError, Bool.or_eq_true, decide_eq_true_iff, decide_eq_true_iff]

/-- The end of a SYNC_ENCODE without an error. -/
theorem exec_syncEncode {s : State} (pat : BitVec 3) (hregion : RegionOk s) (hlock : s.ctrl.euiLock = true) :
    ∃ t, exec (.syncEncode pat) s = .next t ∧
      t = { s with
        status := { lastErr := 0x00#8, lastOp := 0x54#8 }, result := (syncCrc s pat).setWidth 32, bursts := t.bursts } ∧
      (∀ r, r ≠ 259 → t.burst r = s.burst r) ∧ t.burst 259 = syncBurst s pat := by
  have hconfig : configError s (.syncEncode pat) = false := by
    rw [Bool.eq_false_iff, Ne, configError_syncEncode, hlock]
    exact fun herror => herror.elim (absurd hregion) Bool.noConfusion
  exact exec_of_setsBurst (Nat.le_refl 259) rfl hconfig rfl fun _ => rfl

/-- Settles O55: the error, the sequence, and the one record written. -/
theorem syncEncodeResult : Obligations.SyncEncodeResult := by
  intro s pat
  refine ⟨fun herror => exec_of_configError rfl rfl ((configError_syncEncode s pat).2 herror), fun hregion hlock => ?_⟩
  obtain ⟨t, hexec, hframe, hother, hrec⟩ := exec_syncEncode pat hregion hlock
  obtain ⟨-, -, hbound, -⟩ := hregion
  obtain ⟨hbyte0, hbyte1, hbyte2, hbyte3⟩ := syncSeq_bytes s pat
  obtain ⟨hupg3, hupg2⟩ := syncSeq_upg_bits s pat
  refine ⟨t, syncSeq s pat, syncPayload (syncSeq s pat), syncCrc s pat, hexec,
    ⟨hbyte0, hbyte1, hbyte2, hbyte3.trans (lsbShortAddr_eq s)⟩,
    ⟨hupg3, hupg2, syncCrc_eq s pat, burstBit_syncSeq s pat (by decide), burstBit_syncSeq s pat (by decide)⟩,
    fun i hi => burstBit_syncPayload _ hi, hframe, hother, ?_⟩
  rw [hrec]
  refine ⟨fun i hi => burstBit_diffMskBits _ hi, rfl, ?_, ?_⟩
  · rw [syncBurst, BitVec.toNat_ofNat, Nat.mod_eq_of_lt (by omega)]
  · rw [syncBurst, timeSpacing]
    split <;> rfl

end Sys2Proof.Machine
end

section
/-! The pipeline (46_pipeline.md R160 to R163): commands run one after another, PHY_ENCODE and SEND as such runs, what
PHY_ENCODE leaves for the sink, and the telegram. -/

namespace Sys2Proof.Machine

/-! ### The telegram (R163) -/

theorem burstRec_toSink_eq (b : BurstRec) : b.toSink =
    { bits := [b.bits.extractLsb' 32 8, b.bits.extractLsb' 24 8, b.bits.extractLsb' 16 8, b.bits.extractLsb' 8 8,
               b.bits.extractLsb' 0 8],
      bitLength := if b.carrier = 0xFFFF#16 then 0 else 40, carrierOffset := b.carrier, tRb := b.trb } := rfl

theorem telegram_of_sync {s : State} (h : s.outInfo.sync = true) : s.telegram =
    (s.burst 259).toSink :: (List.range s.numBursts.toNat).map fun r => (s.burst r).toSink := by
  rw [State.telegram, State.telegramRecords, if_pos h]
  rfl

theorem telegram_of_no_sync {s : State} (h : s.outInfo.sync = false) : s.telegram =
    (List.range s.numBursts.toNat).map fun r => (s.burst r).toSink := by
  rw [State.telegram, State.telegramRecords, h, if_neg Bool.false_ne_true, List.nil_append]

/-- The data bursts of the telegram, in the order of their records. -/
theorem dataBursts_getElem? (s : State) {j : Nat} (hj : j < s.numBursts.toNat) :
    ((List.range s.numBursts.toNat).map fun r => (s.burst r).toSink)[j]? = some (s.burst j).toSink := by
  rw [List.getElem?_map, List.getElem?_range hj]
  rfl

/-- Settles O60, by the two forms of the telegram. -/
theorem telegramContract : Obligations.TelegramContract := by
  intro s
  cases hsync : s.outInfo.sync with
  | true =>
    rw [telegram_of_sync hsync]
    refine ⟨?_, fun _ => rfl, fun j hj => ?_, burstRec_toSink_eq⟩
    · rw [List.length_cons, List.length_map, List.length_range, Nat.add_comm]
      rfl
    · rw [Bool.toNat_true, Nat.add_comm, List.getElem?_cons_succ]
      exact dataBursts_getElem? s hj
  | false =>
    rw [telegram_of_no_sync hsync]
    refine ⟨?_, Bool.noConfusion, fun j hj => ?_, burstRec_toSink_eq⟩
    · rw [List.length_map, List.length_range, Bool.toNat_false, Nat.zero_add]
    · rw [Bool.toNat_false, Nat.zero_add]
      exact dataBursts_getElem? s hj

/-! ### The errors of PHY_ENCODE and SEND (R161, R162) -/

/-- PHY_ENCODE or SEND with an error of the tables ends in it, and clears F0 too. -/
theorem exec_of_commandError_clearsF0 {i : Instr} {s : State} {c : Byte} (hF0 : clearsF0 i = true)
    (h : commandError i s = some c) : exec i s = .next { s.failed i.mnemonic.opcode c with f0 := 0 } := by
  rw [← commandError_setLastOp i s i.mnemonic.opcode, ← code_commandCheck, Option.map_eq_some_iff] at h
  obtain ⟨e, hcheck, rfl⟩ := h
  rw [exec_eq_run, if_pos hF0, runCommandF0_error hcheck, setLastOp_raiseError]
  rfl

/-- The two errors of PHY_ENCODE, in order. -/
theorem commandError_phyEncode (mlen : BitVec 9) (pat : BitVec 3) (mmode : BitVec 2) (s : State) :
    commandError (.phyEncode mlen pat mmode) s =
      if ¬RegionOk s then some 1#8 else if 255 < mlen.toNat then some 2#8 else none := by
  simp only [commandError, rangeError, configError, lengthError, decide_eq_true_eq, Bool.false_eq_true, if_false]

/-- The errors of SEND, in order. -/
theorem commandError_send (len : BitVec 9) (prio : BitVec 1) (mpfv : Byte) (s : State) :
    commandError (.send len prio mpfv) s =
      if ¬Provisioned s ∨ ¬RegionOk s then some 1#8
      else if 255 < mpduBytesNeeded s len.toNat (mpfv != 0#8) then some 2#8 else none := by
  simp only [commandError, rangeError, configError, lengthError, Bool.or_eq_true, decide_eq_true_eq,
    Bool.false_eq_true, if_false]

/-! ### Commands one after another -/

/-- STATUS, RESULT and EVENTS are no operands of a check (10_state.md R57). -/
theorem commandError_withReports (i : Instr) (s : State) (st : Status) (v : Word) (e : Events) :
    commandError i (s.withReports st v e) = commandError i s := by
  cases i <;> rfl

/-- A command without an error, whatever the reports before it: what its body leaves, its own reports, and the event
bits that it sets. -/
theorem exec_withReports {i : Instr} {s : State} {set : Events} (hnone : commandError i s = none)
    (hbody : PassesReports set (commandBody i) s) (st : Status) (v : Word) (e : Events) :
    exec i (s.withReports st v e) = .next ((commandBody i s).2.withReports
      { lastErr := 0x00#8, lastOp := i.mnemonic.opcode } (commandBody i s).1 (e.or set)) := by
  have hcheck := commandCheck_eq_none ((commandError_withReports i s st v e).trans hnone) i.mnemonic.opcode
  have hop : (s.withReports st v e).setLastOp i.mnemonic.opcode =
      s.withReports { st with lastOp := i.mnemonic.opcode } v e := rfl
  rw [exec_of_check_none hcheck, hop, hbody]
  rfl

theorem runCommands_singleton (i : Instr) (s : State) : runCommands [i] s = exec i s := by
  obtain ⟨t, ht⟩ := exec_next i s
  simp only [runCommands, ht]

theorem runCommands_append {is js : List Instr} {s t : State} (h : runCommands is s = .next t) :
    runCommands (is ++ js) s = runCommands js t := by
  induction is generalizing s with
  | nil => rw [List.nil_append, Host.Outcome.next.inj h]
  | cons i is ih =>
    obtain ⟨u, hu⟩ := exec_next i s
    simp only [List.cons_append, runCommands, hu] at h ⊢
    exact ih h

/-- Whatever the reports before them, the commands lead from `s` to `t` but for STATUS and RESULT, and keep EVENTS. -/
def RunsTo (is : List Instr) (s t : State) : Prop :=
  ∀ st v e, ∃ st' v', runCommands is (s.withReports st v e) = .next (t.withReports st' v' e)

theorem RunsTo.nil (s : State) : RunsTo [] s s := fun st v _ => ⟨st, v, rfl⟩

theorem RunsTo.append {is js : List Instr} {s t u : State} (h : RunsTo is s t) (h' : RunsTo js t u) :
    RunsTo (is ++ js) s u := by
  intro st v e
  obtain ⟨st₁, v₁, hrun⟩ := h st v e
  obtain ⟨st₂, v₂, hrun'⟩ := h' st₁ v₁ e
  exact ⟨st₂, v₂, (runCommands_append hrun).trans hrun'⟩

/-- One command without an error that sets no event bit. -/
theorem RunsTo.command {i : Instr} {s t : State} (hnone : commandError i s = none)
    (hquiet : PassesReports .none (commandBody i) s) (ht : (commandBody i s).2 = t) : RunsTo [i] s t := by
  intro st v e
  refine ⟨{ lastErr := 0x00#8, lastOp := i.mnemonic.opcode }, (commandBody i s).1, ?_⟩
  rw [runCommands_singleton, exec_withReports hnone hquiet, Events.or_none, ht]

/-! ### The primitive commands of PHY_ENCODE (R160, R194) -/

theorem toNat_ofNat_nine {n : Nat} (hn : n ≤ 260) : (BitVec.ofNat 9 n).toNat = n := by
  rw [BitVec.toNat_ofNat, Nat.mod_eq_of_lt (by omega)]

/-- RegionCheck reads nothing that a body may change. -/
theorem ConfigKept.regionOk_iff {s t : State} (h : ConfigKept s t) : RegionOk t ↔ RegionOk s := by
  simp only [RegionOk, ChannelOk, h.upg, h.nCo, h.bC, h.bC0, h.chanA, h.chanB]

section
variable {nb : Nat} (s : State)

theorem runsTo_phyAssemble {mlen : BitVec 9} (mmode : BitVec 2) (hm : mlen.toNat ≤ 255) :
    RunsTo [.phyAssemble mlen mmode] s (phyAssembleBody mlen.toNat mmode s).2 :=
  .command (commandError_eq_none rfl rfl (decide_eq_false (by omega)))
    (.of_quiet fun st v e => phyAssembleBody_withReports s st v e _ _) rfl

theorem runsTo_whiten (hlow : 1 ≤ nb) (hhigh : nb ≤ 259) :
    RunsTo [.whiten (BitVec.ofNat 9 nb)] s (whitenBody nb s).2 := by
  have hnb := toNat_ofNat_nine (show nb ≤ 260 by omega)
  have hrange : rangeError s (.whiten (BitVec.ofNat 9 nb)) = false := by
    have hzero : BitVec.ofNat 9 nb ≠ 0#9 := by bv_omega
    simp only [rangeError, hnb, decide_eq_false hzero, Bool.false_or, decide_eq_false_iff_not]
    omega
  exact .command (commandError_eq_none hrange rfl rfl)
    (.of_quiet fun st v e => whitenBody_withReports s st v e _) (by rw [commandBody, hnb])

theorem runsTo_burstClear (hhigh : nb ≤ 260) :
    RunsTo [.burstClear (BitVec.ofNat 9 nb)] s (burstClearBody nb s).2 := by
  have hnb := toNat_ofNat_nine hhigh
  have hrange : rangeError s (.burstClear (BitVec.ofNat 9 nb)) = false := decide_eq_false (by omega)
  exact .command (commandError_eq_none hrange rfl rfl)
    (.of_quiet fun st v e => burstClearBody_withReports s st v e _) (by rw [commandBody, hnb])

theorem runsTo_convInterleave (hlow : 24 ≤ nb) (hhigh : nb ≤ 259) (hzero : ∀ r < nb, (s.burst r).cursor = 0#5) :
    RunsTo [.convInterleave (BitVec.ofNat 9 nb)] s (convInterleaveBody nb s).2 := by
  have hnb := toNat_ofNat_nine (show nb ≤ 260 by omega)
  have hrange : rangeError s (.convInterleave (BitVec.ofNat 9 nb)) = false := by
    simpa [rangeError, hnb, hlow, hhigh] using hzero
  exact .command (commandError_eq_none hrange rfl rfl)
    (.of_quiet fun st v e => convInterleaveBody_withReports s st v e _) (by rw [commandBody, hnb])

theorem runsTo_tsmaAssign (pat : BitVec 3) (hlow : 24 ≤ nb) (hhigh : nb ≤ 259) (hregion : RegionOk s) :
    RunsTo [.tsmaAssign (BitVec.ofNat 9 nb) pat] s (tsmaAssignBody nb pat s).2 := by
  have hnb := toNat_ofNat_nine (show nb ≤ 260 by omega)
  have hrange : rangeError s (.tsmaAssign (BitVec.ofNat 9 nb) pat) = false := by
    simp [rangeError, hnb, hlow, hhigh]
  exact .command (commandError_eq_none hrange (decide_eq_false (not_not_intro hregion)) rfl)
    (.of_quiet fun st v e => tsmaAssignBody_withReports s st v e _ _) (by rw [commandBody, hnb])

/-- ADD_MIDAMBLE and DIFF_MSK on one record. -/
theorem runsTo_finishBurst {r : Nat} (hr : r ≤ 259) :
    RunsTo [.addMidamble (BitVec.ofNat 9 r), .diffMsk (BitVec.ofNat 9 r)] s
      (diffMskBody r (addMidambleBody r s).2).2 := by
  have hrec := toNat_ofNat_nine (show r ≤ 260 by omega)
  have hrange : decide (259 < (BitVec.ofNat 9 r).toNat) = false := decide_eq_false (by omega)
  have hmidamble : RunsTo [.addMidamble (BitVec.ofNat 9 r)] s (addMidambleBody r s).2 :=
    .command (commandError_eq_none hrange rfl rfl) (.of_quiet fun _ _ _ => rfl) (by rw [commandBody, hrec])
  exact hmidamble.append
    (.command (commandError_eq_none hrange rfl rfl) (.of_quiet fun _ _ _ => rfl) (by rw [commandBody, hrec]))

theorem runsTo_finishBursts (hhigh : nb ≤ 260) :
    RunsTo ((List.range nb).flatMap fun r => [.addMidamble (BitVec.ofNat 9 r), .diffMsk (BitVec.ofNat 9 r)]) s
      (finishBursts nb s) := by
  induction nb with
  | zero => exact .nil s
  | succ nb ih =>
    rw [List.range_succ, List.flatMap_append, List.flatMap_singleton, finishBursts,
      forRange_succ (Nat.zero_le nb)]
    exact (ih (by omega)).append (runsTo_finishBurst _ (by omega))

end

/-- The primitives of R194 up to and with TSMA_ASSIGN. -/
def burstPrimitives (mlen : BitVec 9) (pat : BitVec 3) (mmode : BitVec 2) (nb : Nat) : List Instr :=
  [.phyAssemble mlen mmode, .whiten (BitVec.ofNat 9 nb), .burstClear (BitVec.ofNat 9 nb),
    .convInterleave (BitVec.ofNat 9 nb)]
  ++ (List.range nb).flatMap (fun r => [.addMidamble (BitVec.ofNat 9 r), .diffMsk (BitVec.ofNat 9 r)])
  ++ [.tsmaAssign (BitVec.ofNat 9 nb) pat]

theorem telegramPrimitives_eq (mlen : BitVec 9) (pat : BitVec 3) (mmode : BitVec 2) (nb : Nat) :
    telegramPrimitives mlen pat mmode nb = burstPrimitives mlen pat mmode nb ++ [.calcF0] :=
  (List.append_assoc _ [Instr.tsmaAssign _ pat] [Instr.calcF0]).symm

/-- The primitives before CALC_F0 leave what PHY_ENCODE's steps before f_0 leave. -/
theorem runsTo_phyEncodeBursts {mlen : BitVec 9} (pat : BitVec 3) (mmode : BitVec 2) {s : State}
    (hm : mlen.toNat ≤ 255) (hregion : RegionOk s) :
    RunsTo (burstPrimitives mlen pat mmode (numBurstsOf mlen.toNat)) s (phyEncodeBursts mlen.toNat pat mmode s) := by
  obtain ⟨hlow, hhigh⟩ := numBurstsOf_bounds hm
  have hassigned := (phyEncodeBursts_configKept mlen.toNat pat mmode s).regionOk_iff.2 hregion
  have hbuffer := (runsTo_phyAssemble s mmode hm).append
    (runsTo_whiten _ (nb := numBurstsOf mlen.toNat) (by omega) hhigh)
  have hcleared := hbuffer.append (runsTo_burstClear _ (nb := numBurstsOf mlen.toNat) (by omega))
  refine ((hcleared.append (runsTo_convInterleave _ hlow hhigh fun r hr => ?_)).append
    (runsTo_finishBursts _ (by omega))).append (runsTo_tsmaAssign _ pat hlow hhigh ?_)
  · rw [burstClearBody_burst _ (by omega), if_pos hr]
    rfl
  · exact (tsmaAssignBody_configKept _ pat _).regionOk_iff.1 hassigned

/-- The end of a CALC_F0 without an error, whatever the reports before it. -/
theorem exec_calcF0 {s : State} (hregion : RegionOk s) (st : Status) (v : Word) (e : Events) :
    exec .calcF0 (s.withReports st v e) = .next
      { s with
        status := { lastErr := 0x00#8, lastOp := 0x52#8 }, result := f0Value s, events := e, f0 := f0Value s } := by
  have hnone : commandError .calcF0 s = none :=
    commandError_eq_none rfl (decide_eq_false (not_not_intro hregion)) rfl
  rw [exec_withReports hnone (.of_quiet fun _ _ _ => rfl), Events.or_none]
  rfl

/-- The end of a PHY_ENCODE without an error, whatever the reports before it. -/
theorem exec_phyEncode_withReports {s : State} {mlen : BitVec 9} (pat : BitVec 3) (mmode : BitVec 2)
    (hregion : RegionOk s) (hm : mlen.toNat ≤ 255) (st : Status) (v : Word) (e : Events) :
    exec (.phyEncode mlen pat mmode) (s.withReports st v e) = .next
      ((phyEncodeBody mlen.toNat pat mmode s).2.withReports { lastErr := 0x00#8, lastOp := 0x60#8 }
        (phyEncodeBody mlen.toNat pat mmode s).1 (e.or Events.none.setOutValid)) := by
  have hnone : commandError (.phyEncode mlen pat mmode) s = none := by
    rw [commandError_phyEncode, if_neg (not_not_intro hregion), if_neg (by omega)]
  exact exec_withReports hnone (phyEncodeBody_passesReports _ _ _ _) st v e

/-- The same, field by field. -/
theorem exec_phyEncode {s : State} {mlen : BitVec 9} (pat : BitVec 3) (mmode : BitVec 2) (hregion : RegionOk s)
    (hm : mlen.toNat ≤ 255) :
    exec (.phyEncode mlen pat mmode) s = .next
      { phyEncodeBursts mlen.toNat pat mmode s with
        status := { lastErr := 0x00#8, lastOp := 0x60#8 },
        result := f0Value (phyEncodeBursts mlen.toNat pat mmode s),
        f0 := f0Value (phyEncodeBursts mlen.toNat pat mmode s), outInfo := { pattern := pat, sync := false },
        events := { s.events with outValid := true } } := by
  have hexec := exec_phyEncode_withReports pat mmode hregion hm s.status s.result s.events
  rw [← Events.setOutValid_eq_or] at hexec
  exact hexec

/-- Settles O57: the primitives leave what the steps of PHY_ENCODE leave, and CALC_F0's RESULT is PHY_ENCODE's. -/
theorem phyEncodeEqualsPrimitives : Obligations.PhyEncodeEqualsPrimitives := by
  intro s mlen pat mmode
  have herror := commandError_phyEncode mlen pat mmode s
  refine ⟨fun hregion => ?_, fun hregion hlong => ?_, fun hregion hm => ?_⟩
  · rw [if_pos hregion] at herror
    exact exec_of_commandError_clearsF0 rfl herror
  · rw [if_neg (not_not_intro hregion), if_pos hlong] at herror
    exact exec_of_commandError_clearsF0 rfl herror
  · obtain ⟨st, v, hrun⟩ := runsTo_phyEncodeBursts pat mmode hm hregion s.status s.result s.events
    have hassigned := (phyEncodeBursts_configKept mlen.toNat pat mmode s).regionOk_iff.2 hregion
    have hlast := (runCommands_singleton _ _).trans (exec_calcF0 hassigned st v s.events)
    rw [← numBurstsOf_eq hm, telegramPrimitives_eq]
    exact ⟨_, (runCommands_append hrun).trans hlast, exec_phyEncode pat mmode hregion hm⟩

/-! ### What PHY_ENCODE leaves (R160, R163) -/

/-- `t` is `s` but for what the coding and scheduling steps after PHY_ASSEMBLE may write. -/
def CodingFrame (s t : State) : Prop :=
  t = { s with
    tsmaLfsr := t.tsmaLfsr, whitenLfsr := t.whitenLfsr, convSr := t.convSr, mem := t.mem, bursts := t.bursts }

theorem CodingFrame.trans {s t u : State} (h : CodingFrame s t) (h' : CodingFrame t u) : CodingFrame s u := by
  refine Eq.trans h' ?_
  rw [h]

theorem whitenBody_codingFrame (n : Nat) (s : State) : CodingFrame s (whitenBody n s).2 := by
  rw [whitenBody_frame]
  rfl

theorem burstClearBody_codingFrame (n : Nat) (s : State) : CodingFrame s (burstClearBody n s).2 := rfl

theorem convInterleaveBody_codingFrame (n : Nat) (s : State) : CodingFrame s (convInterleaveBody n s).2 := rfl

theorem finishBursts_codingFrame {nb : Nat} (hnb : nb ≤ 260) (s : State) : CodingFrame s (finishBursts nb s) := by
  rw [finishBursts_frame nb hnb]
  rfl

theorem tsmaAssignBody_codingFrame (nb : Nat) (pat : BitVec 3) (s : State) :
    CodingFrame s (tsmaAssignBody nb pat s).2 := by
  rw [tsmaAssignBody_frame]
  rfl

/-- The steps of PHY_ENCODE after PHY_ASSEMBLE. -/
theorem phyEncodeBursts_codingFrame (mlen : Nat) (pat : BitVec 3) (mmode : BitVec 2) (s : State) :
    CodingFrame (phyAssembleBody mlen mmode s).2 (phyEncodeBursts mlen pat mmode s) :=
  (whitenBody_codingFrame _ _).trans <| (burstClearBody_codingFrame _ _).trans <|
    (convInterleaveBody_codingFrame _ _).trans <|
    (finishBursts_codingFrame (numBurstsOf_le mlen) _).trans (tsmaAssignBody_codingFrame _ _ _)

theorem phyEncodeBursts_frame (mlen : Nat) (pat : BitVec 3) (mmode : BitVec 2) (s : State) :
    ∃ hdr pay, phyEncodeBursts mlen pat mmode s =
      { s with
        numBursts := BitVec.ofNat 9 (numBurstsOf mlen), crcHdr := hdr, crcPay := pay,
        tsmaLfsr := (phyEncodeBursts mlen pat mmode s).tsmaLfsr,
        whitenLfsr := (phyEncodeBursts mlen pat mmode s).whitenLfsr,
        convSr := (phyEncodeBursts mlen pat mmode s).convSr, mem := (phyEncodeBursts mlen pat mmode s).mem,
        bursts := (phyEncodeBursts mlen pat mmode s).bursts } := by
  have hcoding := phyEncodeBursts_codingFrame mlen pat mmode s
  rw [phyAssembleBody_frame] at hcoding
  exact ⟨_, _, hcoding⟩

theorem phyAssembleBody_read_outside {m : Nat} (hm : m ≤ 255) (mmode : BitVec 2) (s : State) {a : Nat}
    (ha : ¬(0x0400 ≤ a ∧ a < 0x0400 + numBurstsOf m)) :
    (phyAssembleBody m mmode s).2.mem.read a = s.mem.read a :=
  setBytes_read_outside s .phybuf 0 (phyBuffer m mmode (s.bytes .mpdu 0 m))
    (by rwa [phyBuffer_length mmode hm (bytes_length s .mpdu 0 m)])

/-- PHY_ENCODE stores no byte outside PHYBUF[0..nb-1]. -/
theorem phyEncodeBursts_read_outside {m : Nat} (hm : m ≤ 255) (pat : BitVec 3) (mmode : BitVec 2) (s : State)
    {a : Nat} (ha : ¬(0x0400 ≤ a ∧ a < 0x0400 + numBurstsOf m)) :
    (phyEncodeBursts m pat mmode s).mem.read a = s.mem.read a := by
  obtain ⟨hlow, -⟩ := numBurstsOf_bounds hm
  rw [phyEncodeBursts, tsmaAssignBody_frame, finishBursts_frame _ (numBurstsOf_le m)]
  exact (whitenBody_read_outside (by omega) _ ha).trans (phyAssembleBody_read_outside hm mmode s ha)

/-- CONV_INTERLEAVE on cleared records fills those of the telegram and leaves the others. -/
theorem convInterleaveBody_cleared_burst {nb : Nat} (hlow : 24 ≤ nb) (hhigh : nb ≤ 259) (s : State) :
    (∀ r < nb, ((convInterleaveBody nb (burstClearBody nb s).2).2.burst r).cursor = 24#5) ∧
      ∀ r, nb ≤ r → (convInterleaveBody nb (burstClearBody nb s).2).2.burst r = s.burst r := by
  have hcleared := burstClearBody_burst nb (by omega) s
  obtain ⟨-, hrecords⟩ := scattered_convLoop hlow hhigh ((burstClearBody nb s).2.byte .phybuf)
    (b := (burstClearBody nb s).2.bursts) fun r hr => congrArg BurstRec.cursor ((hcleared r).trans (if_pos hr))
  exact ⟨fun r hr => hrecords.cursor_end hlow hr,
    fun r hr => (hrecords.others r hr).trans ((hcleared r).trans (if_neg (by omega)))⟩

/-- ADD_MIDAMBLE and DIFF_MSK on a record of the telegram force its head bit and keep its cursor. -/
theorem finishBursts_head_cursor {nb r : Nat} (hnb : nb ≤ 260) (hr : r < nb) (s : State) :
    burstBit ((finishBursts nb s).burst r).bits 0 = true ∧
      ((finishBursts nb s).burst r).cursor = (s.burst r).cursor := by
  rw [finishBursts_burst nb hnb, if_pos hr]
  exact ⟨burstBit_diffMskBits _ (by decide), rfl⟩

/-- The records as PHY_ENCODE leaves them. -/
theorem phyEncodeBursts_burst {m : Nat} (hm : m ≤ 255) (pat : BitVec 3) (mmode : BitVec 2) (s : State) :
    (∀ r < numBurstsOf m, burstBit ((phyEncodeBursts m pat mmode s).burst r).bits 0 = true ∧
      ((phyEncodeBursts m pat mmode s).burst r).cursor = 24#5) ∧
    ((phyEncodeBursts m pat mmode s).burst (numBurstsOf m - 1)).trb = 0 ∧
    ∀ r, numBurstsOf m ≤ r → (phyEncodeBursts m pat mmode s).burst r = s.burst r := by
  obtain ⟨hlow, hhigh⟩ := numBurstsOf_bounds hm
  have hbuffer (r : Nat) :
      (whitenBody (numBurstsOf m) (phyAssembleBody m mmode s).2).2.burst r = s.burst r := by
    rw [whitenBody_frame, phyAssembleBody_frame]
    rfl
  rw [phyEncodeBursts]
  generalize (whitenBody (numBurstsOf m) (phyAssembleBody m mmode s).2).2 = s2 at hbuffer ⊢
  obtain ⟨hfilled, hothers⟩ := convInterleaveBody_cleared_burst hlow hhigh s2
  generalize (convInterleaveBody (numBurstsOf m) (burstClearBody (numBurstsOf m) s2).2).2 = s4 at hfilled hothers ⊢
  obtain ⟨-, hscheduled, hlast⟩ := scheduled_tsmaAssignBody pat (finishBursts (numBurstsOf m) s4) hlow hhigh
  refine ⟨fun r hr => ?_, hlast, fun r hr => ?_⟩
  · obtain ⟨hhead, hcursor⟩ := finishBursts_head_cursor (numBurstsOf_le m) hr s4
    rw [State.burst, hscheduled.frame]
    exact ⟨hhead, hcursor.trans (hfilled r hr)⟩
  · calc _ = (finishBursts (numBurstsOf m) s4).burst r := hscheduled.others r hr
      _ = s4.burst r := by rw [finishBursts_burst _ (numBurstsOf_le m), if_neg (by omega)]
      _ = s.burst r := (hothers r hr).trans (hbuffer r)

/-- In a legal region f_0 is not 0, the failure value. -/
theorem f0Value_ne_zero {s : State} (hregion : RegionOk s) : f0Value s ≠ 0 := by
  intro hzero
  have hvalue := toNat_f0Value hregion
  obtain ⟨hlow, -⟩ := f0Int_bounds hregion
  have hf0 : ((f0Value s).toNat : Int) = 0 := by
    rw [hzero]
    rfl
  omega

/-- Settles O58, by the frame, the bytes and the records of PHY_ENCODE's steps. -/
theorem phyEncodeOutput : Obligations.PhyEncodeOutput := by
  intro s mlen pat mmode hregion hm nb
  have hnb : numBurstsOf mlen.toNat = nb := numBurstsOf_eq hm
  have hassigned := (phyEncodeBursts_configKept mlen.toNat pat mmode s).regionOk_iff.2 hregion
  obtain ⟨hfilled, hlast, hothers⟩ := phyEncodeBursts_burst hm pat mmode s
  obtain ⟨hdr, pay, hframe⟩ := phyEncodeBursts_frame mlen.toNat pat mmode s
  rw [← hnb]
  refine ⟨_, exec_phyEncode pat mmode hregion hm, ?_, f0Value_ne_zero hassigned, hfilled, hlast, hothers,
    fun a ha => phyEncodeBursts_read_outside hm pat mmode s ha⟩
  generalize phyEncodeBursts mlen.toNat pat mmode s = u at hframe ⊢
  rw [hframe]

/-! ### SEND (R162) -/

/-- The pattern of a telegram by the counter that it carries. -/
theorem sendPattern_eq (prio : BitVec 1) (epc : BitVec 32) : sendPattern (prio == 1#1) epc =
    if prio = 1#1 then 6#3 else
      BitVec.ofNat 3 ([0, 1, 2, 3, 0, 1, 2, 3, 4, 0, 1, 2, 3, 4, 5].getD (epc.toNat % 2 ^ 24 % 15) 0) := by
  rw [sendPattern, patternOf, BitVec.toNat_setWidth]
  exact if_congr beq_iff_eq rfl rfl

/-- What SEND's steps 3 and 5 leave: the bodies of MAC_ENCODE and PHY_ENCODE. -/
def sendCoded (len : Nat) (prio : Bool) (mpfv : Byte) (s : State) : Word × State :=
  phyEncodeBody (mpduLength s len (sendMpf mpfv)) (sendPattern prio s.epc) 0#2
    (macEncodeBody len (sendMpf mpfv) mpfv s).2

/-- What SEND's step 6 leaves: the body of SYNC_ENCODE, if SYNC_EN is set. -/
def sendSynced (pat : BitVec 3) (p : State) : State :=
  if p.ctrl.syncEn then (syncEncodeBody pat p).2 else p

theorem sendSynced_of_sync (pat : BitVec 3) {p : State} (h : p.ctrl.syncEn = true) :
    sendSynced pat p = (syncEncodeBody pat p).2 := if_pos h

theorem sendSynced_of_no_sync (pat : BitVec 3) {p : State} (h : p.ctrl.syncEn = false) : sendSynced pat p = p :=
  if_neg (Bool.eq_false_iff.1 h)

theorem sendSynced_ctrl (pat : BitVec 3) (p : State) : (sendSynced pat p).ctrl = p.ctrl := by
  unfold sendSynced
  split <;> rfl

section
variable {len : Nat} {prio : Bool} {mpfv : Byte} {s : State}

theorem sendCoded_configKept : ConfigKept s (sendCoded len prio mpfv s).2 :=
  (macEncodeBody_configKept len (sendMpf mpfv) mpfv s).trans (phyEncodeBody_configKept _ _ _ _)

/-- The body of SEND is its steps, and OUT_INFO of the pattern and SYNC_EN. -/
theorem sendBody_withReports (st : Status) (v : Word) (e : Events) :
    (sendBody len prio mpfv s).2.withReports st v e =
      { sendSynced (sendPattern prio s.epc) (sendCoded len prio mpfv s).2 with
        status := st, result := v, events := e,
        outInfo := { pattern := sendPattern prio s.epc, sync := s.ctrl.syncEn } } := by
  have hctrl : (sendSynced (sendPattern prio s.epc) (sendCoded len prio mpfv s).2).ctrl = s.ctrl :=
    (sendSynced_ctrl _ _).trans sendCoded_configKept.ctrl
  rw [← hctrl]
  rfl

end

/-- OUT_VALID set twice is OUT_VALID set once. -/
theorem Events.or_outValid_twice (e f : Events) :
    e.or (f.or (Events.none.setOutValid.or Events.none.setOutValid)) = (e.or f).or Events.none.setOutValid := by
  rw [← Events.or_assoc]
  rfl

/-- The end of a SEND without an error. -/
theorem exec_send {len : BitVec 9} {prio : BitVec 1} {mpfv : Byte} {s : State}
    (hnone : commandError (.send len prio mpfv) s = none) :
    exec (.send len prio mpfv) s = .next
      { sendSynced (sendPattern (prio == 1#1) s.epc) (sendCoded len.toNat (prio == 1#1) mpfv s).2 with
        status := { lastErr := 0x00#8, lastOp := 0x61#8 }, result := (sendCoded len.toNat (prio == 1#1) mpfv s).1,
        events := (s.events.or (rolloverEvents s)).or Events.none.setOutValid,
        outInfo := { pattern := sendPattern (prio == 1#1) s.epc, sync := s.ctrl.syncEn } } := by
  have hexec := exec_withReports hnone (sendBody_passesReports len.toNat (prio == 1#1) mpfv s)
    s.status s.result s.events
  rw [Events.or_outValid_twice] at hexec
  exact hexec.trans (congrArg _ (sendBody_withReports _ _ _))

/-- The end of SEND's step 3 as a command of its own: MAC_ENCODE with MPF set where there is an MPF value (R134). -/
theorem exec_macEncode_of_send {len : BitVec 9} {mpf : BitVec 1} {mpfv : Byte} {s : State}
    (hmpf : (mpf == 1#1) = sendMpf mpfv) (hlocks : Provisioned s)
    (hfit : mpduLength s len.toNat (sendMpf mpfv) ≤ 255) :
    exec (.macEncode len mpf mpfv) s = .next ((macEncodeBody len.toNat (sendMpf mpfv) mpfv s).2.withReports
      { lastErr := 0x00#8, lastOp := 0x31#8 } (BitVec.ofNat 32 (mpduLength s len.toNat (sendMpf mpfv)))
      (s.events.or (rolloverEvents s))) := by
  have hrange : ¬(mpf = 0#1 ∧ mpfv ≠ 0#8) := by
    rintro ⟨rfl, hvalue⟩
    exact hvalue (by simpa [sendMpf] using hmpf)
  have hnone : commandError (.macEncode len mpf mpfv) s = none := by
    rw [commandError_macEncode, hmpf, if_neg hrange, if_neg (not_not_intro hlocks), if_neg (by omega)]
  have hexec := exec_withReports hnone (macEncodeBody_passesReports len.toNat (mpf == 1#1) mpfv s)
    s.status s.result s.events
  rw [commandBody, hmpf] at hexec
  exact hexec

/-- The end of a SYNC_ENCODE without an error, whatever the reports before it. -/
theorem exec_syncEncode_withReports (pat : BitVec 3) {s : State} (hregion : RegionOk s) (hlock : s.ctrl.euiLock = true)
    (st : Status) (v : Word) (e : Events) :
    exec (.syncEncode pat) (s.withReports st v e) = .next
      ((syncEncodeBody pat s).2.withReports { lastErr := 0x00#8, lastOp := 0x54#8 } (syncEncodeBody pat s).1 e) := by
  have hconfig : configError s (.syncEncode pat) = false := by
    rw [Bool.eq_false_iff, Ne, configError_syncEncode, not_or, hlock]
    exact ⟨not_not_intro hregion, Bool.noConfusion⟩
  rw [exec_withReports (commandError_eq_none rfl hconfig rfl)
    (.of_quiet fun st v e => syncEncodeBody_withReports s st v e _), Events.or_none]
  rfl

/-- Settles O59: the errors in their order, then each part on the state that the part before leaves. -/
theorem sendEqualsItsParts : Obligations.SendEqualsItsParts := by
  intro s len prio mpfv mpf m pat
  have herror := commandError_send len prio mpfv s
  refine ⟨fun hconfig => ?_, fun hlocks hregion hlong => ?_, fun hlocks hregion hm => ?_⟩
  · rw [if_pos hconfig] at herror
    exact exec_of_commandError_clearsF0 rfl herror
  all_goals rw [if_neg fun hconfig => hconfig.elim (absurd hlocks) (absurd hregion)] at herror
  · rw [if_pos hlong] at herror
    exact exec_of_commandError_clearsF0 rfl herror
  · rw [if_neg (by omega)] at herror
    have hmpf : (mpf == 1#1) = sendMpf mpfv := by
      by_cases hvalue : mpfv = 0#8 <;> simp [mpf, sendMpf, hvalue]
    have hpat : pat = sendPattern (prio == 1#1) s.epc := (sendPattern_eq prio s.epc).symm
    have hlen : (BitVec.ofNat 9 m).toNat = m := toNat_ofNat_nine (by omega)
    have hframed := macEncodeBody_configKept len.toNat (sendMpf mpfv) mpfv s
    have hcoded : ConfigKept s (sendCoded len.toNat (prio == 1#1) mpfv s).2 := sendCoded_configKept
    have hlock : (sendCoded len.toNat (prio == 1#1) mpfv s).2.ctrl.euiLock = true := by
      obtain ⟨-, heui⟩ := hlocks
      rw [hcoded.ctrl, heui]
    have hmac := exec_macEncode_of_send hmpf hlocks hm
    have hphy := exec_phyEncode_withReports (mlen := BitVec.ofNat 9 m) pat 0 (hframed.regionOk_iff.2 hregion)
      (by omega)
    have hsync := exec_syncEncode_withReports pat (hcoded.regionOk_iff.2 hregion) hlock
    have hsend := exec_send herror
    rw [hpat, hlen] at hphy
    rw [hpat] at hsync ⊢
    cases hen : s.ctrl.syncEn with
    | true =>
      rw [sendSynced_of_sync _ (hcoded.ctrl ▸ hen), hen] at hsend
      exact ⟨_, _, _, hmac, hphy _ _ _, fun _ => hsync _ _ _, Bool.noConfusion, hsend⟩
    | false =>
      rw [sendSynced_of_no_sync _ (hcoded.ctrl ▸ hen), hen] at hsend
      exact ⟨_, _, _, hmac, hphy _ _ _, Bool.noConfusion, fun _ => rfl, hsend⟩

end Sys2Proof.Machine
end

section
/-! The two ends of error handling (60_exceptions.md R165 to R177): a command with an error changes only the error state,
and no event stops the CORE. -/

namespace Sys2Proof.Machine

/-! ### A command with an error (R169 to R175) -/

/-- Settles O17, by whether the command's failure also clears F0; the table's OPCODE is the one LAST_OP takes. -/
theorem failedCommandsChangeOnlyTheErrorState : Obligations.FailedCommandsChangeOnlyTheErrorState := by
  intro i s c herror
  rw [opcode_of_tableMatch]
  cases hF0 : clearsF0 i with
  | true => exact exec_of_commandError_clearsF0 hF0 herror
  | false => exact exec_of_commandError hF0 herror

/-! ### No event stops the CORE (R165, R177) -/

/-- A command word answers a next state, legal or not (30_encoding.md R94, R96). -/
theorem issueCommand_next (w : Word) (s : State) : ∃ t, issueCommand w s = .next t := by
  rcases issueCommand_cases w s with ⟨i, _, hissue⟩ | ⟨_, _, hissue⟩
  · exact hissue ▸ exec_next i s
  · exact ⟨_, hissue⟩

/-- Every event served answers a next state, a bus error too (20_memory.md R65). -/
theorem serve_next (e : HostEvent) (s : State) : ∃ t, serve e s = .next t := by
  rcases serve_cases e s with ⟨_, _, _, _, _, hread⟩ | ⟨_, _, _, _, _, hillegal⟩ | ⟨_, _, w, _, _, hcommand⟩ |
    ⟨_, _, _, _, _, _, _, hwrite⟩ | ⟨_, hreset⟩
  · exact ⟨_, hread⟩
  · exact ⟨_, hillegal⟩
  · exact hcommand ▸ issueCommand_next w _
  · exact ⟨_, hwrite⟩
  · exact ⟨_, hreset⟩

theorem step_next (s : State) : ∃ t, step s = .next t := by
  cases hqueue : s.hostQueue with
  | nil => exact ⟨s, step_idle hqueue⟩
  | cons e rest => exact step_cons hqueue ▸ serve_next e _

/-- The platform's reset, whatever the state was (70_reset_and_hazards.md R187). -/
theorem step_reset (s : State) : step (s.before .reset) = .next { State.reset with hostQueue := s.hostQueue } := by
  rw [step_before, ← platformReset_eq]
  rfl

/-- Settles O7: whatever is served answers a next state, and with nothing to serve the CORE is idle. -/
theorem stepAlwaysContinuesIdlesAndResets : Obligations.StepAlwaysContinuesIdlesAndResets :=
  ⟨step_next, fun _ hidle => step_idle hidle, step_reset⟩

end Sys2Proof.Machine
end

section
/-! The state right after reset (70_reset_and_hazards.md R187, R188). -/

namespace Sys2Proof.Machine

/-- The reset memory lists no cell, so every byte of every region reads as the unlisted byte. -/
@[simp] theorem reset_byte (g : ByteRegion) (i : Nat) : State.reset.byte g i = 0 := rfl

/-- Settles O9: the registers are read off the reset state, every byte is 0, and the cursors are a legal state's. -/
theorem resetRegistersAndRegions : Obligations.ResetRegistersAndRegions := by
  have hregisters : registerValues State.reset =
      [0, 0, 0, 0, 0, 0, 0, 0, 0, 0, 0, 0, 0, 0xFFFFFF, 0, 0, 0, 0, 0, 0, 0, 0, 0, 0] := rfl
  refine ⟨hregisters, fun i _ => reset_byte .key i, fun i _ => reset_byte .eui64 i, fun i _ => ?_, reset_legal.cursors⟩
  exact ⟨reset_byte .aesIn i, reset_byte .aesOut i, reset_byte .k1 i, reset_byte .k2 i, reset_byte .tag i⟩

/-- Settles O21, by the case that the invariant of every step starts from. -/
theorem resetStateIsLegal : Obligations.ResetStateIsLegal := reset_legal

end Sys2Proof.Machine
end
